-- ==== Sys2Proof/Word.lean ====
section
/-! DEFINITION. Word.lean: the widths of the SGC's values (R10, R11). Every value of the block is unsigned (R14). -/

namespace Sys2Proof

/-- A 32-bit register or command word, the only width a host access moves (R11, R49). -/
abbrev Word := BitVec 32

/-- A word's 0-based position in the 2048-word Wordlist, 11 bits (R10, R22); arithmetic on it wraps modulo 2048 (R16). -/
abbrev Index := BitVec 11

/-- A byte: an entropy byte, CSUM_EXP or CSUM_CALC (R37, R82). -/
abbrev Byte := BitVec 8

/-- A byte offset into the 256-byte register window (R47). -/
abbrev Offset := BitVec 8

end Sys2Proof
end

