-- ==== Sys2Proof/Config.lean ====
section
/-! DEFINITION. Config.lean: what the spec leaves open (R12, R151). Each value is a constant with no body, so nothing in
Lean can compute it or prove a value of it: a theorem about it holds whatever it is. -/

namespace Sys2Proof.Config

/-- `SGC_BASE`, the host address at which the platform places the register window (R12, R47). OPEN. -/
opaque sgcBase : Nat

/-- `LAT_PACK` (R12, R156): the number of host steps taken before the completion step of the n-th accepted command, when it
is a PACK. Finite and otherwise open (R56). DESIGN CHOICE, log entry 2: measured in host steps. -/
opaque latPack : Nat → Nat

/-- `LAT_VERIFY` (R12, R156), as `latPack`. DESIGN CHOICE, log entry 2. -/
opaque latVerify : Nat → Nat

/-- `LAT_CORRECT` (R12, R156), as `latPack`. DESIGN CHOICE, log entry 2. -/
opaque latCorrect : Nat → Nat

/-- The n-th draw: the 32-bit value returned by a read that R151 calls unspecified. No law relates two draws. Log entry 3. -/
opaque draw : Nat → Word

end Sys2Proof.Config
end

