-- ==== Sys2Proof/Syntax.lean ====
section
/-! DEFINITION. Syntax.lean: the command set SGC-CMD v1 (R72), one constructor for each row of spec/opcode_table.json. No
command has an operand field or an immediate (R73). -/

namespace Sys2Proof

/-- The five legal commands (R72, R76). -/
inductive Instr where
  /-- NOP, opcode 0x0 (R123). -/
  | nop
  /-- PACK, opcode 0x1 (R87). -/
  | pack
  /-- VERIFY, opcode 0x2 (R104). -/
  | verify
  /-- CORRECT, opcode 0x3 (R111). -/
  | correct
  /-- CLRERR, opcode 0x4 (R124). -/
  | clrerr
  deriving DecidableEq, Repr

end Sys2Proof
end

