-- ==== Sys2Proof/Machine/State.lean ====
section
/-! DEFINITION. Machine/State.lean: the architectural state of the block (R21), the host that drives it (R20, R77) and the
few fields of the model's own that hold the spec's open choices as plain data (R12, R56, R151). -/

namespace Sys2Proof.Machine

/-- The commands that run for a while, the `op` of `RUN(op)` (R41). -/
inductive RunOp where
  | pack
  | verify
  | correct
  deriving DecidableEq, Repr

/-- The hidden sequencer state `seq` (R41). -/
inductive Seq where
  /-- No command is running. -/
  | idle
  /-- `RUN(op)`: `op` has been accepted and has not completed. -/
  | run (op : RunOp)
  deriving DecidableEq, Repr

/-- The STATUS register's fields, bits 6:0 in this order from bit 0 (R26). Bits 31:7 have no storage (R32). -/
@[ext]
structure Status where
  busy : Bool
  done : Bool
  csumOk : Bool
  found : Bool
  exhausted : Bool
  cmdErr : Bool
  busyErr : Bool
  deriving DecidableEq, Repr

/-- The architectural state of the block, the tuple of R21. CMD stores nothing (R34). -/
@[ext]
structure Block where
  /-- IDX[0..23], the Mnemonic in word order (R22). -/
  idx : Vector Index 24
  /-- STATUS (R26). -/
  status : Status
  /-- KD bits 10:0, the Offset found by CORRECT, else 0 (R35). -/
  kd : Index
  /-- BASE bits 10:0, IDX[23] at the last CORRECT acceptance (R36). -/
  base : Index
  /-- CSUM_EXP, CSUM bits 7:0 (R37). -/
  csumExp : Byte
  /-- CSUM_CALC, CSUM bits 15:8 (R37). -/
  csumCalc : Byte
  /-- DIGEST[0..7] (R38). -/
  digest : Vector Word 8
  /-- ENTROPY[0..7] (R39). -/
  entropy : Vector Word 8
  /-- The sequencer (R41). -/
  seq : Seq
  deriving DecidableEq, Repr

/-- Where a host access goes: a window offset as R77 writes it, or a host address, which reaches the window at `SGC_BASE`
(R47). -/
inductive Place where
  | offset (off : Offset)
  | address (addr : Nat)
  deriving DecidableEq, Repr

/-- What the outside of the block can do to it: the host's accesses (R49, R77) and polling loop (R78), and the reset input
(R144). `width` is the access width in bytes; only 4 is supported (R50). -/
inductive Input where
  | read (p : Place) (width : Nat)
  | write (p : Place) (width : Nat) (v : Word)
  /-- The pseudo-instruction WAIT, run under `fuel` STATUS reads (R78, R158). -/
  | wait (fuel : Nat)
  /-- The reset input is asserted (R144). -/
  | reset
  deriving DecidableEq, Repr

/-- The direction of a host access (R77). -/
inductive Dir where
  | read
  | write
  deriving DecidableEq, Repr

/-- A performed host access, the triple `(dir, off, data)` of R77: for a read, `data` is the value the host got. -/
@[ext]
structure Access where
  dir : Dir
  off : Offset
  data : Word
  deriving DecidableEq, Repr

/-- The whole state: the block (R21), and beside it the host's side and the model's own fields (log entries 1 to 4). -/
@[ext]
structure State where
  /-- The block's architectural state (R21). -/
  block : Block
  /-- Whether a reset has happened since power-on (R146). -/
  resetDone : Bool
  /-- The inputs still to come, the next first, in the order the host issues them (R56). The host's, not the block's. -/
  inputs : List Input
  /-- The host's record of the accesses performed, the newest first (R77). The host's, not the block's. -/
  trace : List Access
  /-- How many more host steps are taken before the running command's completion step (R56). The model's own. -/
  delay : Nat
  /-- How many commands have been accepted; it selects the next latency (R12). The model's own. -/
  accepted : Nat
  /-- How many unspecified values have been read; it selects the next draw (R151). The model's own. -/
  draws : Nat
  deriving DecidableEq, Repr

/-- The machine stops because the run has no result. -/
inductive Fault where
  /-- Raised by the host's WAIT when its fuel is spent and BUSY may still be 1: "no result", never completion (R158, U7).
  Safe: the run stops. -/
  | waitOutOfFuel
  deriving DecidableEq, Repr

/-- The step has no successor: the spec gives the access no meaning. -/
inductive Refusal where
  /-- Raised by `exec` for an instruction with no meaning in the model. No arm raises it. Safe. -/
  | notModelled (mnemonic : String)
  /-- Raised by a host access of a width other than 4 bytes or at an offset with `off[1:0] != 0` (R50, R143). Safe. -/
  | unsupportedAccess
  /-- Raised by a host access outside `SGC_BASE .. SGC_BASE + 0xFF`, which is the platform's (R51). Safe. -/
  | outsideWindow
  /-- Raised by any step but a reset when no reset has happened since power-on (R146, R143). Safe. -/
  | noReset
  deriving DecidableEq, Repr

/-- R44: STATUS after reset. -/
def Status.reset : Status := ⟨false, false, false, false, false, false, false⟩

/-- R44: every piece of the block's state after reset. -/
def Block.reset : Block where
  idx := Vector.replicate 24 0#11
  status := Status.reset
  kd := 0#11
  base := 0#11
  csumExp := 0#8
  csumCalc := 0#8
  digest := Vector.replicate 8 0#32
  entropy := Vector.replicate 8 0#32
  seq := .idle

/-- The machine right after reset (R44, R144): the block at its reset values, waiting for the host (R145), which has issued
nothing yet. The fields of the model's own start at zero: DESIGN CHOICE, log entry 4. -/
def State.reset : State where
  block := Block.reset
  resetDone := true
  inputs := []
  trace := []
  delay := 0
  accepted := 0
  draws := 0

end Sys2Proof.Machine
end

