-- ==== Sys2Proof/Machine/Flags.lean ====
section
/-! DEFINITION. Machine/Flags.lean: every operation on the STATUS register (R26 to R32). -/

namespace Sys2Proof.Machine

/-- R26, R32: the 32-bit value of STATUS, bits 31:7 zero, then BUSY_ERR, CMD_ERR, EXHAUSTED, FOUND, CSUM_OK, DONE, BUSY. -/
def Status.word (st : Status) : Word :=
  0#25 ++ BitVec.ofBool st.busyErr ++ BitVec.ofBool st.cmdErr ++ BitVec.ofBool st.exhausted ++ BitVec.ofBool st.found ++
    BitVec.ofBool st.csumOk ++ BitVec.ofBool st.done ++ BitVec.ofBool st.busy

/-- R122: the flags at acceptance of PACK, VERIFY or CORRECT; CMD_ERR and BUSY_ERR are untouched. -/
def Status.accept (st : Status) : Status :=
  { st with busy := true, done := false, csumOk := false, found := false, exhausted := false }

/-- R87, R104, R111: the two flags every completion step writes. -/
def Status.complete (st : Status) : Status := { st with busy := false, done := true }

/-- R104: the flags VERIFY writes at completion, CSUM_OK being `ok`. -/
def Status.completeVerify (ok : Bool) (st : Status) : Status := { st.complete with csumOk := ok }

/-- R111: the flags CORRECT writes at completion; exactly one of FOUND and EXHAUSTED is set (R30). -/
def Status.completeCorrect (found ok : Bool) (st : Status) : Status :=
  { st.complete with csumOk := ok, found := found, exhausted := !found }

/-- R129: the command error sets the sticky CMD_ERR. -/
def Status.raiseCommand (st : Status) : Status := { st with cmdErr := true }

/-- R130: the busy error sets the sticky BUSY_ERR. -/
def Status.raiseBusy (st : Status) : Status := { st with busyErr := true }

/-- R124: CLRERR clears the two sticky bits. -/
def Status.clearErrors (st : Status) : Status := { st with cmdErr := false, busyErr := false }

end Sys2Proof.Machine
end

