-- ==== Sys2Proof/Machine/Operands.lean ====
section
/-! DEFINITION. Machine/Operands.lean: where an access goes and what it reaches: the window (R47, R50, R51), the register map
(R52), the value each register reads as (R118) and the index registers as operands (R73). -/

namespace Sys2Proof.Machine

/-- The registers of the map (R52), and the reserved offsets. -/
inductive Reg where
  | cmd
  | status
  | kd
  | base
  | csum
  | digest (k : Fin 8)
  | entropy (k : Fin 8)
  | idx (i : Fin 24)
  | reserved
  deriving DecidableEq, Repr

/-- R47, R51: the window offset that a host address reaches, if it lies in the window. -/
def windowOffset (addr : Nat) : Option Offset :=
  if Config.sgcBase ≤ addr ∧ addr ≤ Config.sgcBase + 0xFF then some (BitVec.ofNat 8 (addr - Config.sgcBase)) else none

/-- The window offset of a place, if it lies in the window (R47, R77). -/
def Place.resolve : Place → Option Offset
  | .offset off => some off
  | .address addr => windowOffset addr

/-- R50: a supported access is 4 bytes wide and has `off[1:0] = 0`. -/
def supported (off : Offset) (width : Nat) : Bool := width == 4 && off.extractLsb' 0 2 == 0#2

/-- R52: the register at a window offset with `off[1:0] = 0`; every other offset of the window is reserved (R53). -/
def regAt (off : Offset) : Reg :=
  let n := off.toNat
  if n = 0x00 then .cmd
  else if n = 0x04 then .status
  else if n = 0x08 then .kd
  else if n = 0x0C then .base
  else if n = 0x10 then .csum
  else if h : 0x20 ≤ n ∧ n < 0x40 then .digest ⟨(n - 0x20) / 4, by omega⟩
  else if h : 0x40 ≤ n ∧ n < 0x60 then .entropy ⟨(n - 0x40) / 4, by omega⟩
  else if h : 0x80 ≤ n ∧ n < 0xE0 then .idx ⟨(n - 0x80) / 4, by omega⟩
  else .reserved

/-- R52: the window offset of a register; for `reserved`, the first reserved offset. -/
def Reg.offset : Reg → Offset
  | .cmd => 0x00#8
  | .status => 0x04#8
  | .kd => 0x08#8
  | .base => 0x0C#8
  | .csum => 0x10#8
  | .digest k => BitVec.ofNat 8 (0x20 + 4 * k.val)
  | .entropy k => BitVec.ofNat 8 (0x40 + 4 * k.val)
  | .idx i => BitVec.ofNat 8 (0x80 + 4 * i.val)
  | .reserved => 0x14#8

/-- R118: the value a register reads as; unused high bits read 0 (R33), CMD and reserved offsets read 0 (R53). -/
def Block.regValue (b : Block) : Reg → Word
  | .cmd => 0#32
  | .status => b.status.word
  | .kd => b.kd.setWidth 32
  | .base => b.base.setWidth 32
  | .csum => (b.csumCalc ++ b.csumExp).setWidth 32
  | .digest k => b.digest[k]
  | .entropy k => b.entropy[k]
  | .idx i => b.idx[i].setWidth 32
  | .reserved => 0#32

/-- R151: whether a read of the register returns an unspecified value: KD, CSUM, DIGEST and ENTROPY while BUSY = 1, and
IDX[23] while CORRECT runs. STATUS, BASE and IDX[0..22] read their true values. -/
def Block.readsUnspecified (b : Block) : Reg → Bool
  | .cmd => false
  | .status => false
  | .kd => b.status.busy
  | .base => false
  | .csum => b.status.busy
  | .digest _ => b.status.busy
  | .entropy _ => b.status.busy
  | .idx i => b.status.busy && decide (b.seq = .run .correct) && decide (i = 23)
  | .reserved => false

/-- The last index, IDX[23] (R22). -/
def lastIndex (idx : Vector Index 24) : Index := idx[23]

/-- The 24 indices with the last one replaced (R106, R112). -/
def withLast (idx : Vector Index 24) (x : Index) : Vector Index 24 := idx.set 23 x

/-- R73, R120: the 11 bits an index write takes from its data; bits 31:11 are ignored. -/
def indexOfData (v : Word) : Index := v.extractLsb' 0 11

/-- R120: IDX[i] <- v[10:0]. -/
def Block.setIdx (b : Block) (i : Fin 24) (v : Word) : Block := { b with idx := b.idx.set i (indexOfData v) }

end Sys2Proof.Machine
end

