-- ==== Sys2Proof/Machine/Ops.lean ====
section
/-! DEFINITION. Machine/Ops.lean: the operations the meanings share. The block has no trap (R127, R133): raising a condition
sets one sticky STATUS bit and does nothing else, and nothing returns from it (R134). -/

namespace Sys2Proof.Machine

/-- What one step answers. -/
abbrev Result := Host.Outcome State Fault Refusal

/-- The state with its block changed by `f`. -/
def State.onBlock (s : State) (f : Block → Block) : State := { s with block := f s.block }

/-- R17, R129: `raise CommandError(CMD_ERR)`: the access sets CMD_ERR and has no other effect. -/
def raiseCommand (s : State) : State := s.onBlock fun b => { b with status := b.status.raiseCommand }

/-- R17, R130: `raise BusyError(BUSY_ERR)`: the access sets BUSY_ERR and is dropped. -/
def raiseBusy (s : State) : State := s.onBlock fun b => { b with status := b.status.raiseBusy }

/-- R121, R130, R132: a write to CMD is dropped with BUSY_ERR while BUSY = 1, whatever the word; otherwise it has the
command's own effect. -/
def command (effect : State → State) (s : State) : Result :=
  if s.block.status.busy then .next (raiseBusy s) else .next (effect s)

/-- R122: acceptance of `op`, common to PACK, VERIFY and CORRECT: only CORRECT loads BASE. -/
def Block.accept (op : RunOp) (b : Block) : Block :=
  { b with
    base := if op = .correct then lastIndex b.idx else b.base
    status := b.status.accept
    kd := 0#11
    seq := .run op }

/-- R12, R156: the open latency of the n-th accepted command. -/
def latency : RunOp → Nat → Nat
  | .pack => Config.latPack
  | .verify => Config.latVerify
  | .correct => Config.latCorrect

/-- R122: acceptance, with the command's latency taken from the open parameter (log entry 2). -/
def accept (op : RunOp) (s : State) : State :=
  { s with block := s.block.accept op, delay := latency op s.accepted, accepted := s.accepted + 1 }

/-- R144: the reset input: every piece of the block's state takes its reset value, and a running command is abandoned. The
host and its record stay (they are outside the block). -/
def assertReset (rest : List Input) (s : State) : State :=
  { s with block := Block.reset, resetDone := true, inputs := rest, delay := 0 }

/-- The host's record grows by one access (R77). -/
def State.record (s : State) (a : Access) : State := { s with trace := a :: s.trace }

/-- The next input leaves the queue, and one host step of a running command's latency passes (R56). -/
def State.takeInput (s : State) (rest : List Input) : State := { s with inputs := rest, delay := s.delay - 1 }

end Sys2Proof.Machine
end

