-- ==== Sys2Proof/Machine/Pack.lean ====
section
/-! DEFINITION. Machine/Pack.lean: the helper Pack (R80 to R86) and the command PACK (R87). -/

namespace Sys2Proof.Machine

/-- R15, R80: the value of the concatenation of a list of indices, 11 bits each, the first one most significant. -/
def concatValue (l : List Index) : Nat := l.foldl (fun acc x => acc * 2 ^ 11 + x.toNat) 0

/-- R80: the 264-bit string S. -/
def bitString (idx : Vector Index 24) : BitVec 264 := BitVec.ofNat 264 (concatValue idx.toList)

/-- R81: the entropy E = S[263:8]. -/
def entropyBits (s : BitVec 264) : BitVec 256 := s.extractLsb' 8 256

/-- R81: the checksum C = S[7:0]. -/
def checksumBits (s : BitVec 264) : Byte := s.extractLsb' 0 8

/-- R82: the entropy byte B[j] = E[255 − 8j : 248 − 8j], for j in 0..31. -/
def entropyByte (e : BitVec 256) (j : Nat) : Byte := e.extractLsb' (248 - 8 * j) 8

/-- R83: the entropy word ent[k] = B[4k] ‖ B[4k+1] ‖ B[4k+2] ‖ B[4k+3], for k in 0..7. -/
def entropyWord (e : BitVec 256) (k : Nat) : Word :=
  entropyByte e (4 * k) ++ entropyByte e (4 * k + 1) ++ entropyByte e (4 * k + 2) ++ entropyByte e (4 * k + 3)

/-- R83: ent[0..7]. -/
def entropyWords (idx : Vector Index 24) : Vector Word 8 :=
  Vector.ofFn fun k => entropyWord (entropyBits (bitString idx)) k.val

/-- R83: the checksum C of the 24 indices. -/
def expectedChecksum (idx : Vector Index 24) : Byte := checksumBits (bitString idx)

/-- PACK (R87), its write to CMD: acceptance, or BUSY_ERR. -/
def execPack (s : State) : Result := command (accept .pack) s

/-- PACK's completion (R87): ENTROPY and CSUM_EXP are written; DIGEST and CSUM_CALC keep their values (R88). -/
def completePack (b : Block) : Block :=
  { b with
    entropy := entropyWords b.idx
    csumExp := expectedChecksum b.idx
    status := b.status.complete
    seq := .idle }

end Sys2Proof.Machine
end

