-- ==== Sys2Proof/Machine/Sha256.lean ====
section
/-! DEFINITION. Machine/Sha256.lean: SHA-256 of a 32-byte message, one compression of one block (R90 to R100). The spec
supplies these rules from general knowledge (log entry 14). -/

namespace Sys2Proof.Machine

/-- R91: `ROTR^n(x)`, 0 < n < 32. -/
def rotr (n : Nat) (x : Word) : Word := (x >>> n) ||| (x <<< (32 - n))

/-- R91: `SHR^n(x)`. -/
def shr (n : Nat) (x : Word) : Word := x >>> n

/-- R92: choice. -/
def ch (x y z : Word) : Word := (x &&& y) ^^^ (~~~x &&& z)

/-- R92: majority. -/
def maj (x y z : Word) : Word := (x &&& y) ^^^ (x &&& z) ^^^ (y &&& z)

/-- R93: Σ0. -/
def bigSigma0 (x : Word) : Word := rotr 2 x ^^^ rotr 13 x ^^^ rotr 22 x

/-- R93: Σ1. -/
def bigSigma1 (x : Word) : Word := rotr 6 x ^^^ rotr 11 x ^^^ rotr 25 x

/-- R93: σ0. -/
def smallSigma0 (x : Word) : Word := rotr 7 x ^^^ rotr 18 x ^^^ shr 3 x

/-- R93: σ1. -/
def smallSigma1 (x : Word) : Word := rotr 17 x ^^^ rotr 19 x ^^^ shr 10 x

/-- R94: the round constants K[0..63]. -/
def roundConstants : List Word :=
  [0x428a2f98, 0x71374491, 0xb5c0fbcf, 0xe9b5dba5, 0x3956c25b, 0x59f111f1, 0x923f82a4, 0xab1c5ed5] ++
  [0xd807aa98, 0x12835b01, 0x243185be, 0x550c7dc3, 0x72be5d74, 0x80deb1fe, 0x9bdc06a7, 0xc19bf174] ++
  [0xe49b69c1, 0xefbe4786, 0x0fc19dc6, 0x240ca1cc, 0x2de92c6f, 0x4a7484aa, 0x5cb0a9dc, 0x76f988da] ++
  [0x983e5152, 0xa831c66d, 0xb00327c8, 0xbf597fc7, 0xc6e00bf3, 0xd5a79147, 0x06ca6351, 0x14292967] ++
  [0x27b70a85, 0x2e1b2138, 0x4d2c6dfc, 0x53380d13, 0x650a7354, 0x766a0abb, 0x81c2c92e, 0x92722c85] ++
  [0xa2bfe8a1, 0xa81a664b, 0xc24b8b70, 0xc76c51a3, 0xd192e819, 0xd6990624, 0xf40e3585, 0x106aa070] ++
  [0x19a4c116, 0x1e376c08, 0x2748774c, 0x34b0bcb5, 0x391c0cb3, 0x4ed8aa4a, 0x5b9cca4f, 0x682e6ff3] ++
  [0x748f82ee, 0x78a5636f, 0x84c87814, 0x8cc70208, 0x90befffa, 0xa4506ceb, 0xbef9a3f7, 0xc67178f2]

/-- The working variables a..h of the compression, and any other eight hash words (R95, R98). -/
@[ext]
structure HashWords where
  a : Word
  b : Word
  c : Word
  d : Word
  e : Word
  f : Word
  g : Word
  h : Word
  deriving DecidableEq, Repr

/-- R95: the initial hash value H(0)[0..7]. -/
def initialHash : HashWords :=
  ⟨0x6a09e667, 0xbb67ae85, 0x3c6ef372, 0xa54ff53a, 0x510e527f, 0x9b05688c, 0x1f83d9ab, 0x5be0cd19⟩

/-- R96: the padded message M[0..15] of a 32-byte message. -/
def message (ent : Vector Word 8) : List Word :=
  ent.toList ++ [0x80000000#32] ++ List.replicate 6 0#32 ++ [0x00000100#32]

/-- R97: the next schedule word W[t], from the words W[0..t−1] before it. -/
def nextScheduleWord (w : List Word) : Word :=
  let t := w.length
  smallSigma1 (w.getD (t - 2) 0) + w.getD (t - 7) 0 + smallSigma0 (w.getD (t - 15) 0) + w.getD (t - 16) 0

/-- R97: `n` more schedule words. -/
def extendSchedule : Nat → List Word → List Word
  | 0, w => w
  | n + 1, w => extendSchedule n (w ++ [nextScheduleWord w])

/-- R97: the message schedule W[0..63]. -/
def schedule (m : List Word) : List Word := extendSchedule 48 m

/-- R98: one round on the values from before it, with `kw = (K[t], W[t])`. -/
def shaRound (v : HashWords) (kw : Word × Word) : HashWords :=
  let t1 := v.h + bigSigma1 v.e + ch v.e v.f v.g + kw.1 + kw.2
  let t2 := bigSigma0 v.a + maj v.a v.b v.c
  { a := t1 + t2, b := v.a, c := v.b, d := v.c, e := v.d + t1, f := v.e, g := v.f, h := v.g }

/-- R98: the rounds t = 0, 1, ... in order, from H(0). -/
def compress (w : List Word) : HashWords := (roundConstants.zip w).foldl shaRound initialHash

/-- R99: the final hash value H[0..7] from the working variables after the last round. -/
def finalHash (v : HashWords) : Vector Word 8 :=
  #v[initialHash.a + v.a, initialHash.b + v.b, initialHash.c + v.c, initialHash.d + v.d,
     initialHash.e + v.e, initialHash.f + v.f, initialHash.g + v.g, initialHash.h + v.h]

/-- R100: `SHA256_32`, SHA-256 of the 32 entropy bytes given as eight big-endian words. -/
@[irreducible] def sha256 (ent : Vector Word 8) : Vector Word 8 := finalHash (compress (schedule (message ent)))

end Sys2Proof.Machine
end

