-- ==== Sys2Proof/Machine/Verify.lean ====
section
/-! DEFINITION. Machine/Verify.lean: the helper Check (R101) and the command VERIFY (R104). -/

namespace Sys2Proof.Machine

/-- What Check returns (R101). -/
@[ext]
structure CheckResult where
  /-- ent[0..7]. -/
  entropy : Vector Word 8
  /-- C, the checksum split off the string. -/
  csumExp : Byte
  /-- H[0..7]. -/
  digest : Vector Word 8
  /-- calc, the first digest byte. -/
  csumCalc : Byte
  /-- Whether calc = C. -/
  ok : Bool
  deriving DecidableEq, Repr

/-- R65, R99: the first 8 bits of a digest, H[0][31:24]. -/
def firstByte (digest : Vector Word 8) : Byte := digest[0].extractLsb' 24 8

/-- R101: the checksum test, the source's `verify`. The comparison names the expected checksum first, so that on indices that
are variables its evaluation stops there and no hash is unfolded. -/
def check (idx : Vector Index 24) : CheckResult :=
  let ent := entropyWords idx
  let h := sha256 ent
  { entropy := ent
    csumExp := expectedChecksum idx
    digest := h
    csumCalc := firstByte h
    ok := expectedChecksum idx == firstByte h }

/-- Write all that Check returns but the flag into the result registers (R104, R111). -/
def Block.writeCheck (b : Block) (r : CheckResult) : Block :=
  { b with entropy := r.entropy, digest := r.digest, csumExp := r.csumExp, csumCalc := r.csumCalc }

/-- VERIFY (R104), its write to CMD: acceptance, or BUSY_ERR. -/
def execVerify (s : State) : Result := command (accept .verify) s

/-- VERIFY's completion (R104). -/
def completeVerify (b : Block) : Block :=
  let r := check b.idx
  { b.writeCheck r with status := b.status.completeVerify r.ok, seq := .idle }

end Sys2Proof.Machine
end

