-- ==== Sys2Proof/Machine/Correct.lean ====
section
/-! DEFINITION. Machine/Correct.lean: the helper Search (R106 to R110) and the command CORRECT (R111). The order in which an
implementation evaluates the candidates is free and unobservable (R109); the result is that of the sequential search. -/

namespace Sys2Proof.Machine

/-- What Search returns (R106). -/
@[ext]
structure SearchResult where
  found : Bool
  kd : Index
  last : Index
  deriving DecidableEq, Repr

/-- R106: the candidate `(base + ofs) mod 2048`. -/
def candidate (base : Index) (ofs : Nat) : Index := base + BitVec.ofNat 11 ofs

/-- R106: whether the indices are valid with the last one replaced by the candidate at `ofs`. -/
def candidateValid (idx : Vector Index 24) (ofs : Nat) : Bool :=
  (check (withLast idx (candidate (lastIndex idx) ofs))).ok

/-- R10, R106: the offsets 1, 2, ..., 2047, in the order tried; offset 0 is never tried. -/
@[irreducible] def searchOffsets : List Nat := List.range' 1 2047

/-- R106: the first offset tried whose candidate is valid, if there is one: the first success wins. -/
def firstSuccess (idx : Vector Index 24) : Option Nat := searchOffsets.find? (candidateValid idx)

/-- R106: the bounded linear search: `(1, ofs, cand)` at the first success, `(0, 0, base)` if there is none. -/
def search (idx : Vector Index 24) : SearchResult :=
  match firstSuccess idx with
  | some ofs => { found := true, kd := BitVec.ofNat 11 ofs, last := candidate (lastIndex idx) ofs }
  | none => { found := false, kd := 0#11, last := lastIndex idx }

/-- CORRECT (R111), its write to CMD: acceptance, BASE included, or BUSY_ERR. -/
def execCorrect (s : State) : Result := command (accept .correct) s

/-- CORRECT's completion (R111): the search, then Check of the indices with the new IDX[23] (R113). -/
def completeCorrect (b : Block) : Block :=
  let r := search b.idx
  let idx := withLast b.idx r.last
  let c := check idx
  { b.writeCheck c with
    idx := idx
    kd := r.kd
    status := b.status.completeCorrect r.found c.ok
    seq := .idle }

end Sys2Proof.Machine
end

