-- ==== Sys2Proof/Machine/Completion.lean ====
section
/-! DEFINITION. Machine/Completion.lean: the sequencer's completion step, which writes all of a command's results and clears
BUSY in one indivisible step (R55, R149). -/

namespace Sys2Proof.Machine

/-- R149: the completion part of `op`'s rule (R87, R104, R111). -/
def Block.complete (op : RunOp) (b : Block) : Block :=
  match op with
  | .pack => completePack b
  | .verify => completeVerify b
  | .correct => completeCorrect b

/-- R149: the completion step; no latency is left. -/
def completionStep (op : RunOp) (s : State) : State := { s with block := s.block.complete op, delay := 0 }

end Sys2Proof.Machine
end

