-- ==== Sys2Proof/WellFormed.lean ====
section
/-! DEFINITION. WellFormed.lean: which command words are legal (R70, R74). An `Instr` has no field to check (R73), so the
checks are on the 32-bit word the host writes to CMD. -/

namespace Sys2Proof

/-- Every command is well formed: it has no operand (R73). -/
def Instr.wf : Instr → Bool
  | .nop => true
  | .pack => true
  | .verify => true
  | .correct => true
  | .clrerr => true

namespace CommandWord

/-- The must-be-zero field, bits 31:4 (R70). -/
def mbz (w : Word) : BitVec 28 := w.extractLsb' 4 28

/-- The opcode field OP, bits 3:0 (R70). -/
def op (w : Word) : BitVec 4 := w.extractLsb' 0 4

/-- The first check: bits 31:4 are zero (R70, R74). -/
def mbzZero (w : Word) : Bool := mbz w == 0#28

/-- The second check: the opcode is none of the reserved 0x5 .. 0xF (R72, R74). -/
def opAssigned (w : Word) : Bool := (op w).ule 0x4#4

/-- A command word is legal when both checks pass (R74). -/
def wf (w : Word) : Bool := mbzZero w && opAssigned w

end CommandWord

end Sys2Proof
end

