-- ==== Sys2Proof/Decode.lean ====
section
/-! DEFINITION. Decode.lean: decoding a command word (R71), total on every 32-bit value, and the encoder (R72). The block
fetches nothing: a command word is the value of one write to CMD (R60, R69). -/

namespace Sys2Proof

/-- Why a command word is ILLEGAL (R74). Both kinds have one effect, CMD_ERR (R125). -/
inductive IllegalWord where
  /-- Bits 31:4 are not all zero. -/
  | mbzNonzero
  /-- Bits 31:4 are zero and OP is in 0x5 .. 0xF. -/
  | opReserved
  deriving DecidableEq, Repr

/-- R72: the opcode of each command. -/
def opcode : Instr → BitVec 4
  | .nop => 0x0#4
  | .pack => 0x1#4
  | .verify => 0x2#4
  | .correct => 0x3#4
  | .clrerr => 0x4#4

/-- R71: the command with opcode `op`, if the opcode is assigned. -/
def ofOpcode (op : BitVec 4) : Except IllegalWord Instr :=
  if op = 0x0#4 then .ok .nop
  else if op = 0x1#4 then .ok .pack
  else if op = 0x2#4 then .ok .verify
  else if op = 0x3#4 then .ok .correct
  else if op = 0x4#4 then .ok .clrerr
  else .error .opReserved

/-- R71: decoding of a command word; `.error` is ILLEGAL. -/
def decode (w : Word) : Except IllegalWord Instr :=
  if CommandWord.mbz w ≠ 0#28 then .error .mbzNonzero else ofOpcode (CommandWord.op w)

/-- R70, R72: the command word of a command, MBZ then OP. -/
def encode (i : Instr) : Word := 0#28 ++ opcode i

/-- What `decode` reads from the command word whose low `nbits` bits are those of `w`, the bits above being zero. A command
word has 32 bits and no other length (R69, R75). -/
def decodeTableWord (nbits w : Nat) : Option Instr :=
  if nbits ≤ 32 then (decode (BitVec.ofNat 32 (w % 2 ^ nbits))).toOption else none

end Sys2Proof
end

