-- ==== Sys2Proof/Machine/Control.lean ====
section
/-! DEFINITION. Machine/Control.lean: the control commands NOP and CLRERR (R123, R124) and the illegal command (R125). -/

namespace Sys2Proof.Machine

/-- NOP (R123): no state changes; dropped with BUSY_ERR while BUSY = 1 (R121). -/
def execNop (s : State) : Result := command (fun s => s) s

/-- CLRERR (R124): CMD_ERR and BUSY_ERR become 0 at the write; dropped with BUSY_ERR while BUSY = 1. -/
def execClrerr (s : State) : Result :=
  command (fun s => s.onBlock fun b => { b with status := b.status.clearErrors }) s

/-- The illegal command (R125): CMD_ERR becomes 1 and nothing else changes; while BUSY = 1 it sets BUSY_ERR instead (R132). -/
def execIllegal (s : State) : Result := command raiseCommand s

end Sys2Proof.Machine
end

