-- ==== Sys2Proof/Machine/Dispatch.lean ====
section
/-! DEFINITION. Machine/Dispatch.lean: the effect of a command, decided at its write to CMD (R121). What PACK, VERIFY and
CORRECT write later is their completion step (Machine/Completion.lean). -/

namespace Sys2Proof.Machine

def exec (i : Instr) (s : State) : Host.Outcome State Fault Refusal :=
  match i with
  | .nop => Sys2Proof.Machine.execNop s
  | .pack => Sys2Proof.Machine.execPack s
  | .verify => Sys2Proof.Machine.execVerify s
  | .correct => Sys2Proof.Machine.execCorrect s
  | .clrerr => Sys2Proof.Machine.execClrerr s

end Sys2Proof.Machine
end

