-- ==== Sys2Proof/Machine/HostAccess.lean ====
section
/-! DEFINITION. Machine/HostAccess.lean: the host's register read and write (R118 to R121), its polling loop WAIT and its
pseudo-instructions (R78). -/

namespace Sys2Proof.Machine

/-- R118, R151: the value of a supported read. An unspecified one is the next draw, and the counter of draws advances, so
that two such reads are unrelated (log entry 3). A read changes nothing of the block (R54). -/
def memRead (off : Offset) (s : State) : Word × State :=
  if s.block.readsUnspecified (regAt off) then (Config.draw s.draws, { s with draws := s.draws + 1 })
  else (s.block.regValue (regAt off), s)

/-- A supported read as the host sees it: the access and its value are recorded (R77). -/
def hostRead (off : Offset) (s : State) : State :=
  let r := memRead off s
  r.2.record { dir := .read, off := off, data := r.1 }

/-- R121: a command write. While BUSY = 1 the word is not decoded (R132). -/
def cmdWrite (v : Word) (s : State) : Result :=
  if s.block.status.busy then .next (raiseBusy s)
  else
    match decode v with
    | .ok i => exec i s
    | .error _ => execIllegal s

/-- R120: an index write, dropped with BUSY_ERR while BUSY = 1. -/
def idxWrite (i : Fin 24) (v : Word) (s : State) : State :=
  if s.block.status.busy then raiseBusy s else s.onBlock fun b => b.setIdx i v

/-- R119: a supported write. A write to a read-only or reserved offset changes nothing and sets no error (R53). -/
def memWrite (off : Offset) (v : Word) (s : State) : Result :=
  match regAt off with
  | .cmd => cmdWrite v s
  | .idx i => .next (idxWrite i v s)
  | .status => .next s
  | .kd => .next s
  | .base => .next s
  | .csum => .next s
  | .digest _ => .next s
  | .entropy _ => .next s
  | .reserved => .next s

/-- R50, R51, R132: run `act` on the offset of a supported access; any other access is refused before anything is looked at. -/
def atOffset (p : Place) (width : Nat) (act : Offset → Result) : Result :=
  match p.resolve with
  | none => .refused .outsideWindow
  | some off => if supported off width then act off else .refused .unsupportedAccess

/-- R78, R158: one poll of WAIT: a read of STATUS, and the loop again with less fuel if bit 0 (BUSY) of the value read is 1.
With no fuel left the run has no result. -/
def pollStatus (fuel : Nat) (s : State) : Result :=
  match fuel with
  | 0 => .fault .waitOutOfFuel
  | fuel + 1 =>
    let t := hostRead Reg.status.offset s
    .next (if (memRead Reg.status.offset s).1.getLsbD 0 then { t with inputs := .wait fuel :: t.inputs } else t)

/-- R149: one host step, or the reset input. The input has already left the queue. -/
def hostStep (x : Input) (s : State) : Result :=
  match x with
  | .read p width => atOffset p width fun off => .next (hostRead off s)
  | .write p width v => atOffset p width fun off => memWrite off v (s.record { dir := .write, off := off, data := v })
  | .wait fuel => pollStatus fuel s
  | .reset => .next (assertReset s.inputs s)

/-- R77: the syntax `WR <reg>, <value>`. -/
def writeReg (r : Reg) (v : Word) : Input := .write (.offset r.offset) 4 v

/-- R77: the syntax `RD <reg>`. -/
def readReg (r : Reg) : Input := .read (.offset r.offset) 4

/-- R78: the pseudo-instruction of a command, a write of its word to CMD. -/
def issue (i : Instr) : Input := writeReg .cmd (encode i)

/-- R78: LOADIDX, the 24 index writes in order. -/
def loadIdx (v : Vector Word 24) : List Input := (List.finRange 24).map fun i => writeReg (.idx i) v[i]

end Sys2Proof.Machine
end

