-- ==== Sys2Proof/Machine/Schedule.lean ====
section
/-! DEFINITION. Machine/Schedule.lean: which step comes next (R56, R149). The choice the spec leaves open, how many host steps
precede a completion step, is the field `delay`, set at acceptance from an open parameter (log entry 2). -/

namespace Sys2Proof.Machine

/-- The step the machine takes next. -/
inductive Move where
  /-- A reset step, with the inputs after it. -/
  | reset (rest : List Input)
  /-- The completion step of the running command. -/
  | complete (op : RunOp)
  /-- A host step, with the inputs after it. -/
  | host (x : Input) (rest : List Input)
  /-- No command runs and the host issues nothing: the block waits (R142, R145). -/
  | quiet
  deriving DecidableEq, Repr

/-- R132, R149: an asserted reset comes before everything (log entry 7). A running command completes when its latency has
passed or when the host issues nothing more (R150, log entry 6). Otherwise the host's next access is performed. -/
def nextMove (s : State) : Move :=
  match s.inputs with
  | .reset :: rest => .reset rest
  | [] =>
    match s.block.seq with
    | .idle => .quiet
    | .run op => .complete op
  | x :: rest =>
    match s.block.seq with
    | .idle => .host x rest
    | .run op => if s.delay = 0 then .complete op else .host x rest

/-- Perform a step. Before the first reset only the reset input is accepted (R146, log entry 8). -/
def perform (m : Move) (s : State) : Result :=
  match m with
  | .reset rest => .next (assertReset rest s)
  | .complete op => if s.resetDone then .next (completionStep op s) else .refused .noReset
  | .host x rest => if s.resetDone then hostStep x (s.takeInput rest) else .refused .noReset
  | .quiet => if s.resetDone then .next s else .refused .noReset

/-- The state in which the very next step is a write of the command word `v` to CMD: the host's next access is that write,
a reset has happened, and a running command's completion does not come first. -/
def State.withNextCommand (s : State) (v : Word) : State :=
  { s with
    inputs := writeReg .cmd v :: s.inputs
    resetDone := true
    delay := match s.block.seq with
      | .idle => s.delay
      | .run _ => s.delay + 1 }

end Sys2Proof.Machine
end

