-- ==== Sys2Proof/Machine/Step.lean ====
section
/-! DEFINITION. Machine/Step.lean: one step of a run (R149). -/

namespace Sys2Proof.Machine

/-- R149: a host step, a completion step or a reset step, as `nextMove` chooses. -/
def step (s : State) : Host.Outcome State Fault Refusal := perform (nextMove s) s

/-- The state in which the very next step runs the command word whose low `nbits` bits are those of `w` (log entry 5). -/
def State.withFetchWord (s : State) (nbits w : Nat) : State := s.withNextCommand (BitVec.ofNat 32 (w % 2 ^ nbits))

end Sys2Proof.Machine
end

