-- ==== Sys2Proof/Safety.lean ====
section
/-! DEFINITION. Safety.lean: what counts as a sound state and a safe run, in the terms the statements use. -/

namespace Sys2Proof.Machine

/-- The relations between the block's registers that the spec gives at every step, for states a run can reach. -/
structure Block.Inv (b : Block) : Prop where
  /-- R41: `seq = IDLE` exactly when BUSY = 0. -/
  busy_iff_running : b.status.busy = true ↔ b.seq ≠ .idle
  /-- R28: DONE = 1 implies BUSY = 0. -/
  done_not_busy : b.status.done = true → b.status.busy = false
  /-- R26: CSUM_OK is set only by a completion, and cleared at the next acceptance. -/
  csumOk_done : b.status.csumOk = true → b.status.done = true
  /-- R26: FOUND likewise. -/
  found_done : b.status.found = true → b.status.done = true
  /-- R26: EXHAUSTED likewise. -/
  exhausted_done : b.status.exhausted = true → b.status.done = true
  /-- R30: never both variants of CORRECT's result. -/
  not_found_and_exhausted : ¬(b.status.found = true ∧ b.status.exhausted = true)
  /-- R35: KD = 0 means that no offset exists. -/
  found_iff_kd : b.status.found = true ↔ b.kd ≠ 0#11
  /-- R106, R113: a found last index makes the checksum valid. -/
  found_csumOk : b.status.found = true → b.status.csumOk = true
  /-- R29: CSUM_OK says that the two checksums agree. -/
  csumOk_match : b.status.csumOk = true → b.csumCalc = b.csumExp
  /-- R37, R38: CSUM_CALC is the first byte of the digest. -/
  csumCalc_digest : b.csumCalc = firstByte b.digest
  /-- R45: while CSUM_OK is 1 the digest is that of the entropy. -/
  csumOk_digest : b.status.csumOk = true → b.digest = sha256 b.entropy
  /-- R36, R58: while CORRECT runs, BASE is IDX[23]. -/
  correct_base : b.seq = .run .correct → b.base = lastIndex b.idx
  /-- R28, R153: DONE = 0 and BUSY = 0 mean that no command was accepted since reset, so every result register holds 0. -/
  fresh : b.status.done = false → b.status.busy = false →
    b.base = 0#11 ∧ b.csumExp = 0#8 ∧ b.csumCalc = 0#8 ∧
      b.digest = Vector.replicate 8 0#32 ∧ b.entropy = Vector.replicate 8 0#32

/-- The invariant of the whole machine: the block's, and no latency is pending while no command runs. -/
structure State.Inv (s : State) : Prop where
  block : s.block.Inv
  idle_delay : s.block.seq = .idle → s.delay = 0

/-- A host access the block gives a meaning to: inside the window, 4 bytes wide, aligned (R50, R51). -/
def Input.access : Input → Bool
  | .read (.offset off) width => supported off width
  | .write (.offset off) width _ => supported off width
  | .read (.address _) _ => false
  | .write (.address _) _ _ => false
  | .wait _ => false
  | .reset => false

/-- The next step is the host step `x`: a reset has happened (R146), `x` is the host's next access, and no completion step
comes before it (R56). -/
structure State.Issues (s : State) (x : Input) (rest : List Input) : Prop where
  reset_done : s.resetDone = true
  inputs : s.inputs = x :: rest
  not_reset : x ≠ .reset
  turn : s.block.seq = .idle ∨ s.delay ≠ 0

/-- The next step is the completion step of `op` (R149): `op` runs, the reset input is not asserted, and either the latency
has passed or the host issues nothing more. -/
structure State.Completes (s : State) (op : RunOp) : Prop where
  reset_done : s.resetDone = true
  running : s.block.seq = .run op
  turn : s.inputs = [] ∨ s.delay = 0
  no_reset : s.inputs.head? ≠ some .reset

/-- What the host cannot observe while a command runs (R41, R151) overwritten with zeros: KD, CSUM, DIGEST, ENTROPY and,
during CORRECT, IDX[23]. -/
def Block.hideResults (b : Block) : Block :=
  { b with
    idx := if b.seq = .run .correct then withLast b.idx 0#11 else b.idx
    kd := 0#11
    csumExp := 0#8
    csumCalc := 0#8
    digest := Vector.replicate 8 0#32
    entropy := Vector.replicate 8 0#32 }

/-- Two states that differ at most in what the host cannot observe while a command runs (R41, R151). -/
def State.SameView (s t : State) : Prop :=
  { s with block := s.block.hideResults } = { t with block := t.block.hideResults }

/-- R159: a host program has ended when its last access has been performed and no command runs. -/
def State.ended (s : State) : Prop := s.inputs = [] ∧ s.block.seq = .idle

/-- A step that answers a next state: neither a fault nor a refusal. -/
def State.Safe (s : State) : Prop := ∃ t, step s = .next t

end Sys2Proof.Machine
end

