-- ==== Sys2Proof/Certificates/Slice0/Obligations.lean ====
section
/-! DEFINITION. Obligations.lean: the statements for the provers, each formalising the rules of spec/ its docstring names. -/

open Sys2Proof Sys2Proof.Machine

/-! ### Command words and the register map -/

/-- R71, R72, R74, R79: the opcode map, and words of each illegal kind. -/
def Obligations.CommandWordsDecodeByTheOpcodeMap : Prop :=
  decode 0x00000000#32 = .ok .nop ∧ decode 0x00000001#32 = .ok .pack ∧ decode 0x00000002#32 = .ok .verify ∧
    decode 0x00000003#32 = .ok .correct ∧ decode 0x00000004#32 = .ok .clrerr ∧
    decode 0x00000005#32 = .error .opReserved ∧ decode 0x0000000F#32 = .error .opReserved ∧
    decode 0x00000010#32 = .error .mbzNonzero ∧ decode 0x00000013#32 = .error .mbzNonzero ∧
    decode 0x80000002#32 = .error .mbzNonzero

/-- R71, R72: a word decodes to a command exactly when it is that command's word; both directions, on all 2^32 words. -/
def Obligations.DecodeAndEncodeAgree : Prop :=
  ∀ (w : Word) (i : Instr), decode w = .ok i ↔ w = encode i

/-- R74, R76 (which the spec derives from R71): the legal words are 0 to 4, the words of a reserved opcode are 5 to 15, and
every other word has a nonzero MBZ field. -/
def Obligations.IllegalWordsAreExactlyThoseAboveFour : Prop :=
  ∀ w : Word,
    ((∃ i, decode w = .ok i) ↔ w.toNat ≤ 4) ∧
    (decode w = .error .opReserved ↔ 5 ≤ w.toNat ∧ w.toNat ≤ 15) ∧
    (decode w = .error .mbzNonzero ↔ 16 ≤ w.toNat) ∧
    (CommandWord.wf w = true ↔ w.toNat ≤ 4)

/-- R52: the register map at every aligned offset. -/
def Obligations.RegisterMapMatchesItsTable : Prop :=
  (∀ r : Reg, regAt r.offset = r) ∧
    Reg.cmd.offset = 0x00#8 ∧ Reg.status.offset = 0x04#8 ∧ Reg.kd.offset = 0x08#8 ∧ Reg.base.offset = 0x0C#8 ∧
    Reg.csum.offset = 0x10#8 ∧
    (∀ k : Fin 8, (Reg.digest k).offset.toNat = 0x20 + 4 * k) ∧
    (∀ k : Fin 8, (Reg.entropy k).offset.toNat = 0x40 + 4 * k) ∧
    (∀ i : Fin 24, (Reg.idx i).offset.toNat = 0x80 + 4 * i) ∧
    (∀ off : Offset, (0x14 ≤ off.toNat ∧ off.toNat ≤ 0x1C) ∨ (0x60 ≤ off.toNat ∧ off.toNat ≤ 0x7C) ∨ 0xE0 ≤ off.toNat →
      regAt off = .reserved)

/-- R26, R32: the position of each STATUS bit; bits 31:7 read 0. -/
def Obligations.StatusBitsStandAtTheirPositions : Prop :=
  ∀ st : Status,
    st.word.getLsbD 0 = st.busy ∧ st.word.getLsbD 1 = st.done ∧ st.word.getLsbD 2 = st.csumOk ∧
    st.word.getLsbD 3 = st.found ∧ st.word.getLsbD 4 = st.exhausted ∧ st.word.getLsbD 5 = st.cmdErr ∧
    st.word.getLsbD 6 = st.busyErr ∧ ∀ i, 7 ≤ i → st.word.getLsbD i = false

/-! ### Reset -/

/-- R44: the reset value of every piece of the block's state. -/
def Obligations.ResetStateHoldsTheResetValues : Prop :=
  (∀ i : Fin 24, State.reset.block.idx[i] = 0#11) ∧ State.reset.block.status.word = 0x00000000#32 ∧
    State.reset.block.kd = 0#11 ∧ State.reset.block.base = 0#11 ∧ State.reset.block.csumExp = 0#8 ∧
    State.reset.block.csumCalc = 0#8 ∧ (∀ k : Fin 8, State.reset.block.digest[k] = 0#32) ∧
    (∀ k : Fin 8, State.reset.block.entropy[k] = 0#32) ∧ State.reset.block.seq = .idle

/-- R144: asserting reset at any time, a running command included and before the first reset too, gives every piece of the
block's state its reset value; and a running command ends in no other way than by its completion step or by reset. -/
def Obligations.ResetInputResetsTheWholeBlock : Prop :=
  (∀ (s : State) (rest : List Input), s.inputs = .reset :: rest →
    ∃ t, step s = .next t ∧ t.resetDone = true ∧ t.inputs = rest ∧ t.trace = s.trace ∧
      (∀ i : Fin 24, t.block.idx[i] = 0#11) ∧ t.block.status.word = 0#32 ∧ t.block.kd = 0#11 ∧ t.block.base = 0#11 ∧
      t.block.csumExp = 0#8 ∧ t.block.csumCalc = 0#8 ∧ (∀ k : Fin 8, t.block.digest[k] = 0#32) ∧
      (∀ k : Fin 8, t.block.entropy[k] = 0#32) ∧ t.block.seq = .idle) ∧
  (∀ (s t : State) (op : RunOp), s.block.status.busy = true → s.block.seq = .run op → step s = .next t →
    t.block.seq = .run op ∨ s.Completes op ∨ ∃ rest, s.inputs = .reset :: rest)

/-- R146: with no reset since power-on, a step that is not a reset is refused, whatever the state. The rule speaks of host
accesses; that the other steps are refused too is the model's choice (log entry 8). -/
def Obligations.NothingRunsBeforeTheFirstReset : Prop :=
  ∀ s : State, s.resetDone = false → s.inputs.head? ≠ some .reset → step s = .refused .noReset

/-- R142, R145, R159: when no command runs and the host's last access has been performed, nothing changes. That the machine
has a step there, and that it answers the same state, is the model's reading (log entry 13). -/
def Obligations.IdleBlockWaitsUnchanged : Prop :=
  ∀ s : State, s.resetDone = true → s.ended → step s = .next s

/-! ### Host accesses -/

/-- R121 (decision at the write) joined to the dispatch: when the host's next access writes a word to CMD that decodes to
`i`, the step is `exec i`, on the state with that access taken from the queue and recorded. -/
def Obligations.StepRunsTheDecodedCommand : Prop :=
  ∀ (s : State) (w : Word) (i : Instr) (rest : List Input),
    s.Issues (.write (.offset 0x00#8) 4 w) rest → decode w = .ok i →
    step s = exec i { s with
      inputs := rest
      delay := s.delay - 1
      trace := { dir := .write, off := 0x00#8, data := w } :: s.trace }

/-- R125, R129: an illegal command word sets CMD_ERR and changes nothing else. -/
def Obligations.IllegalWordSetsOnlyCmdErr : Prop :=
  ∀ (s : State) (w : Word) (rest : List Input),
    s.Issues (.write (.offset 0x00#8) 4 w) rest → (∀ i, decode w ≠ .ok i) → s.block.status.busy = false →
    step s = .next { s with
      block := { s.block with status := { s.block.status with cmdErr := true } }
      inputs := rest
      delay := s.delay - 1
      trace := { dir := .write, off := 0x00#8, data := w } :: s.trace }

/-- R130, R132: a write to CMD, of any word, or to any IDX[i] while BUSY = 1 sets BUSY_ERR and changes nothing else; a write to
a read-only or reserved offset while BUSY = 1 is ignored without error; and no step but its own completion step or reset ends
a running command. -/
def Obligations.BusyWritesAreDropped : Prop :=
  (∀ (s : State) (off : Offset) (v : Word) (rest : List Input),
    s.Issues (.write (.offset off) 4 v) rest → s.block.status.busy = true → off.toNat % 4 = 0 →
    ((off = 0x00#8 ∨ ∃ i : Fin 24, off.toNat = 0x80 + 4 * i) →
      step s = .next { s with
        block := { s.block with status := { s.block.status with busyErr := true } }
        inputs := rest
        delay := s.delay - 1
        trace := { dir := .write, off := off, data := v } :: s.trace }) ∧
    ((off ≠ 0x00#8 ∧ ∀ i : Fin 24, off.toNat ≠ 0x80 + 4 * i) →
      step s = .next { s with
        inputs := rest
        delay := s.delay - 1
        trace := { dir := .write, off := off, data := v } :: s.trace })) ∧
  (∀ (s t : State) (op : RunOp), s.block.status.busy = true → s.block.seq = .run op → step s = .next t →
    t.block.seq = .run op ∨ s.Completes op ∨ ∃ rest, s.inputs = .reset :: rest)

/-- R120: an index write stores the low 11 bits of the data in IDX[i], and changes no other register; while BUSY = 1 it sets
BUSY_ERR and stores nothing. -/
def Obligations.IndexWriteStoresElevenBits : Prop :=
  ∀ (s : State) (i : Fin 24) (off : Offset) (v : Word) (rest : List Input),
    s.Issues (.write (.offset off) 4 v) rest → off.toNat = 0x80 + 4 * i →
    ∃ t, step s = .next t ∧ t.inputs = rest ∧ t.trace = { dir := .write, off := off, data := v } :: s.trace ∧
      (s.block.status.busy = false →
        t.block.idx[i].toNat = v.toNat % 2048 ∧ (∀ j : Fin 24, j ≠ i → t.block.idx[j] = s.block.idx[j]) ∧
        t.block = { s.block with idx := t.block.idx }) ∧
      (s.block.status.busy = true →
        t.block = { s.block with status := { s.block.status with busyErr := true } })

/-- R53: a write to a read-only or reserved offset changes no register and sets no error bit, whether or not BUSY = 1; a read
of a reserved offset or of CMD returns 0. -/
def Obligations.ReadOnlyAndReservedOffsets : Prop :=
  ∀ (s : State) (off : Offset) (v : Word) (rest : List Input), off.toNat % 4 = 0 →
    (s.Issues (.write (.offset off) 4 v) rest → off ≠ 0x00#8 → (off.toNat < 0x80 ∨ 0xE0 ≤ off.toNat) →
      step s = .next { s with
        inputs := rest
        delay := s.delay - 1
        trace := { dir := .write, off := off, data := v } :: s.trace }) ∧
    (s.Issues (.read (.offset off) 4) rest →
      (off = 0x00#8 ∨ (0x14 ≤ off.toNat ∧ off.toNat ≤ 0x1C) ∨ (0x60 ≤ off.toNat ∧ off.toNat ≤ 0x7C) ∨
        0xE0 ≤ off.toNat) →
      step s = .next { s with
        inputs := rest
        delay := s.delay - 1
        trace := { dir := .read, off := off, data := 0#32 } :: s.trace })

/-- R118: the value every supported read returns while BUSY = 0; the host records it and no register changes. -/
def Obligations.ReadReturnsTheRegister : Prop :=
  ∀ (s : State) (off : Offset) (rest : List Input),
    s.Issues (.read (.offset off) 4) rest → off.toNat % 4 = 0 → s.block.status.busy = false →
    ∃ v : Word, step s = .next { s with
        inputs := rest
        delay := s.delay - 1
        trace := { dir := .read, off := off, data := v } :: s.trace } ∧
      (off.toNat = 0x00 → v = 0#32) ∧
      (off.toNat = 0x04 → v = s.block.status.word) ∧
      (off.toNat = 0x08 → v.toNat = s.block.kd.toNat) ∧
      (off.toNat = 0x0C → v.toNat = s.block.base.toNat) ∧
      (off.toNat = 0x10 → v.toNat = 256 * s.block.csumCalc.toNat + s.block.csumExp.toNat) ∧
      (∀ k : Fin 8, off.toNat = 0x20 + 4 * k → v = s.block.digest[k]) ∧
      (∀ k : Fin 8, off.toNat = 0x40 + 4 * k → v = s.block.entropy[k]) ∧
      (∀ i : Fin 24, off.toNat = 0x80 + 4 * i → v.toNat = s.block.idx[i].toNat) ∧
      ((0x14 ≤ off.toNat ∧ off.toNat ≤ 0x1C) ∨ (0x60 ≤ off.toNat ∧ off.toNat ≤ 0x7C) ∨ 0xE0 ≤ off.toNat → v = 0#32)

/-- R151: while BUSY = 1 a read of KD, CSUM, DIGEST or ENTROPY, and during CORRECT a read of IDX[23], returns a fresh draw
(the next value of the open `Config.draw`, log entry 3); STATUS, BASE and IDX[0..22], and IDX[23] while another command
runs, read their true values. No register changes. -/
def Obligations.ReadsOfResultsWhileBusyAreDraws : Prop :=
  ∀ (s : State) (off : Offset) (rest : List Input),
    s.Issues (.read (.offset off) 4) rest → s.block.status.busy = true →
    let reads (v : Word) (n : Nat) : Prop := step s = .next { s with
      inputs := rest
      delay := s.delay - 1
      draws := n
      trace := { dir := .read, off := off, data := v } :: s.trace }
    let draw : Prop := reads (Config.draw s.draws) (s.draws + 1)
    (off.toNat = 0x08 → draw) ∧ (off.toNat = 0x10 → draw) ∧
      (∀ k : Fin 8, off.toNat = 0x20 + 4 * k → draw) ∧ (∀ k : Fin 8, off.toNat = 0x40 + 4 * k → draw) ∧
      (off.toNat = 0xDC → s.block.seq = .run .correct → draw) ∧
      (off.toNat = 0xDC → s.block.seq ≠ .run .correct → reads (s.block.idx[23].setWidth 32) s.draws) ∧
      (off.toNat = 0x04 → reads s.block.status.word s.draws) ∧
      (off.toNat = 0x0C → reads (s.block.base.setWidth 32) s.draws) ∧
      (∀ i : Fin 24, i.val < 23 → off.toNat = 0x80 + 4 * i → reads (s.block.idx[i].setWidth 32) s.draws)

/-- R67, R137: every supported access is permitted, whatever the state of the block: the step answers a next state. -/
def Obligations.EverySupportedAccessIsPermitted : Prop :=
  ∀ (s : State) (x : Input) (rest : List Input), s.Issues x rest → x.access = true → s.Safe

/-- R50: an access of another width, or at an offset with `off[1:0] != 0`, is refused. -/
def Obligations.UnsupportedAccessesAreRefused : Prop :=
  ∀ (s : State) (off : Offset) (width : Nat) (v : Word) (rest : List Input),
    (width ≠ 4 ∨ off.toNat % 4 ≠ 0) →
    (s.Issues (.read (.offset off) width) rest → step s = .refused .unsupportedAccess) ∧
    (s.Issues (.write (.offset off) width v) rest → step s = .refused .unsupportedAccess)

/-- R47: an access to the host address `SGC_BASE + off` is the access at offset `off`. -/
def Obligations.HostAddressesReachTheWindow : Prop :=
  ∀ (s : State) (off : Offset) (width : Nat) (v : Word) (rest : List Input),
    (s.Issues (.read (.address (Config.sgcBase + off.toNat)) width) rest →
      step s = step { s with inputs := .read (.offset off) width :: rest }) ∧
    (s.Issues (.write (.address (Config.sgcBase + off.toNat)) width v) rest →
      step s = step { s with inputs := .write (.offset off) width v :: rest })

/-- The model's choice for R51 and U3 (log entry 9): an access outside the window, which the block does not decode and the
platform answers, is refused. -/
def Obligations.AccessesOutsideTheWindowAreRefused : Prop :=
  ∀ (s : State) (addr width : Nat) (v : Word) (rest : List Input),
    (addr < Config.sgcBase ∨ Config.sgcBase + 0xFF < addr) →
    (s.Issues (.read (.address addr) width) rest → step s = .refused .outsideWindow) ∧
    (s.Issues (.write (.address addr) width v) rest → step s = .refused .outsideWindow)

/-! ### The commands -/

/-- R123: NOP, written while BUSY = 0, changes no state. -/
def Obligations.NopChangesNothing : Prop :=
  ∀ s : State,
    (s.block.status.busy = false → exec .nop s = .next s) ∧
    (s.block.status.busy = true → exec .nop s =
      .next { s with block := { s.block with status := { s.block.status with busyErr := true } } })

/-- R124: CLRERR, written while BUSY = 0, clears CMD_ERR and BUSY_ERR and changes nothing else; while BUSY = 1 it sets
BUSY_ERR. -/
def Obligations.ClrerrClearsTheStickyBits : Prop :=
  ∀ s : State,
    (s.block.status.busy = false → exec .clrerr s =
      .next { s with block := { s.block with status := { s.block.status with cmdErr := false, busyErr := false } } }) ∧
    (s.block.status.busy = true → exec .clrerr s =
      .next { s with block := { s.block with status := { s.block.status with busyErr := true } } })

/-- R87: PACK. At its write: acceptance (BUSY = 0) or BUSY_ERR alone (BUSY = 1). At its completion step: ENTROPY and CSUM_EXP
are written, BUSY = 0 and DONE = 1. Every other register is unchanged. When the completion step comes is open (R56); the
model's `State.Completes` says when it does here (log entries 2 and 6). -/
def Obligations.PackAcceptsAndCompletes : Prop :=
  (∀ s : State, s.block.status.busy = false → ∃ t, exec .pack s = .next t ∧
    t.block = { s.block with
      status := { s.block.status with busy := true, done := false, csumOk := false, found := false, exhausted := false }
      kd := 0#11
      seq := .run .pack } ∧
    t.inputs = s.inputs ∧ t.trace = s.trace ∧ t.resetDone = s.resetDone ∧ t.draws = s.draws) ∧
  (∀ s : State, s.block.status.busy = true → exec .pack s =
    .next { s with block := { s.block with status := { s.block.status with busyErr := true } } }) ∧
  (∀ s : State, s.Completes .pack → ∃ t, step s = .next t ∧
    (∀ k : Fin 8, t.block.entropy[k] = ((bitString s.block.idx).extractLsb' 8 256).extractLsb' (224 - 32 * k) 32) ∧
    t.block.csumExp = (bitString s.block.idx).extractLsb' 0 8 ∧
    t.block = { s.block with
      entropy := t.block.entropy
      csumExp := t.block.csumExp
      status := { s.block.status with busy := false, done := true }
      seq := .idle } ∧
    t.inputs = s.inputs ∧ t.trace = s.trace ∧ t.resetDone = s.resetDone ∧ t.draws = s.draws)

/-- R104: VERIFY. At its write: acceptance (BUSY = 0) or BUSY_ERR alone (BUSY = 1). At its completion step: ENTROPY, DIGEST,
CSUM and CSUM_OK are those of Check on IDX. Every other register is unchanged. When the completion step comes: log entries
2 and 6. -/
def Obligations.VerifyAcceptsAndCompletes : Prop :=
  (∀ s : State, s.block.status.busy = false → ∃ t, exec .verify s = .next t ∧
    t.block = { s.block with
      status := { s.block.status with busy := true, done := false, csumOk := false, found := false, exhausted := false }
      kd := 0#11
      seq := .run .verify } ∧
    t.inputs = s.inputs ∧ t.trace = s.trace ∧ t.resetDone = s.resetDone ∧ t.draws = s.draws) ∧
  (∀ s : State, s.block.status.busy = true → exec .verify s =
    .next { s with block := { s.block with status := { s.block.status with busyErr := true } } }) ∧
  (∀ s : State, s.Completes .verify → ∃ t, step s = .next t ∧
    t.block.entropy = entropyWords s.block.idx ∧
    t.block.digest = sha256 t.block.entropy ∧
    t.block.csumExp = (bitString s.block.idx).extractLsb' 0 8 ∧
    t.block.csumCalc = t.block.digest[0].extractLsb' 24 8 ∧
    (t.block.status.csumOk = true ↔ t.block.csumCalc = t.block.csumExp) ∧
    t.block = { s.block with
      entropy := t.block.entropy
      digest := t.block.digest
      csumExp := t.block.csumExp
      csumCalc := t.block.csumCalc
      status := { s.block.status with busy := false, done := true, csumOk := t.block.status.csumOk }
      seq := .idle } ∧
    t.inputs = s.inputs ∧ t.trace = s.trace ∧ t.resetDone = s.resetDone ∧ t.draws = s.draws)

/-- R111: CORRECT. At its write: acceptance, BASE taking IDX[23] (BUSY = 0), or BUSY_ERR alone (BUSY = 1). At its completion
step: IDX[23], KD, FOUND and EXHAUSTED are those of Search, and the results are those of Check on the new indices. Every
other register is unchanged. When the completion step comes: log entries 2 and 6. -/
def Obligations.CorrectAcceptsAndCompletes : Prop :=
  (∀ s : State, s.block.status.busy = false → ∃ t, exec .correct s = .next t ∧
    t.block = { s.block with
      base := s.block.idx[23]
      status := { s.block.status with busy := true, done := false, csumOk := false, found := false, exhausted := false }
      kd := 0#11
      seq := .run .correct } ∧
    t.inputs = s.inputs ∧ t.trace = s.trace ∧ t.resetDone = s.resetDone ∧ t.draws = s.draws) ∧
  (∀ s : State, s.block.status.busy = true → exec .correct s =
    .next { s with block := { s.block with status := { s.block.status with busyErr := true } } }) ∧
  (∀ s : State, s.Completes .correct → ∃ t, step s = .next t ∧
    t.block.idx[23] = (search s.block.idx).last ∧
    (∀ i : Fin 24, i.val < 23 → t.block.idx[i] = s.block.idx[i]) ∧
    t.block.kd = (search s.block.idx).kd ∧
    t.block.status.found = (search s.block.idx).found ∧
    t.block.entropy = (check t.block.idx).entropy ∧ t.block.digest = (check t.block.idx).digest ∧
    t.block.csumExp = (check t.block.idx).csumExp ∧ t.block.csumCalc = (check t.block.idx).csumCalc ∧
    t.block.base = s.block.base ∧ t.block.seq = .idle ∧
    t.block.status = { s.block.status with
      busy := false, done := true, csumOk := (check t.block.idx).ok, found := (search s.block.idx).found,
      exhausted := !(search s.block.idx).found } ∧
    t.inputs = s.inputs ∧ t.trace = s.trace ∧ t.resetDone = s.resetDone ∧ t.draws = s.draws)

/-- R45, R113: after a completion the result registers are those of the indices as they then stand; PACK answers for ENTROPY
and CSUM_EXP only, and leaves DIGEST and CSUM_CALC (R88). -/
def Obligations.CompletedResultsDescribeTheIndices : Prop :=
  ∀ (s : State) (op : RunOp), s.Completes op → ∃ t, step s = .next t ∧ t.block.status.done = true ∧
    t.block.status.busy = false ∧
    t.block.entropy = (check t.block.idx).entropy ∧ t.block.csumExp = (check t.block.idx).csumExp ∧
    (op ≠ .pack → t.block.digest = (check t.block.idx).digest ∧ t.block.csumCalc = (check t.block.idx).csumCalc ∧
      t.block.status.csumOk = (check t.block.idx).ok) ∧
    (op = .pack → t.block.digest = s.block.digest ∧ t.block.csumCalc = s.block.csumCalc)

/-! ### Pack -/

/-- R80: the 264-bit string is the sum of the indices at their weights. -/
def Obligations.BitStringIsTheWeightedSum : Prop :=
  ∀ idx : Vector Index 24, (bitString idx).toNat = ∑ i : Fin 24, idx[i].toNat * 2 ^ (11 * (23 - i.val))

/-- R84: index i occupies S[263 − 11i : 253 − 11i]. -/
def Obligations.EachIndexOccupiesItsField : Prop :=
  ∀ (idx : Vector Index 24) (i : Fin 24), (bitString idx).extractLsb' (253 - 11 * i.val) 11 = idx[i]

/-- R86: (E, C) determines the 24 indices: no bit of them is lost. -/
def Obligations.PackIsInjective : Prop :=
  ∀ idx idx' : Vector Index 24, entropyWords idx = entropyWords idx' → expectedChecksum idx = expectedChecksum idx' →
    idx = idx'

/-- R82, R83: the entropy bytes and words are the stated fields of E = S[263:8], and C = S[7:0]. -/
def Obligations.EntropyWordsAreFieldsOfTheString : Prop :=
  ∀ idx : Vector Index 24,
    (∀ k : Fin 8, (entropyWords idx)[k].toNat = (bitString idx).toNat / 2 ^ (8 + 224 - 32 * k.val) % 2 ^ 32) ∧
    (∀ j : Fin 32, (entropyByte (entropyBits (bitString idx)) j).toNat =
      (bitString idx).toNat / 2 ^ (8 + 248 - 8 * j.val) % 2 ^ 8) ∧
    (expectedChecksum idx).toNat = (bitString idx).toNat % 2 ^ 8

/-- R84, R102: the last index gives its bits 7:0 to the checksum and its bits 10:8 to the end of ENTROPY[7], and the entropy
depends on it only through those three bits. -/
def Obligations.LastIndexSplitsIntoEntropyAndChecksum : Prop :=
  ∀ (idx : Vector Index 24) (x : Index),
    expectedChecksum (withLast idx x) = x.extractLsb' 0 8 ∧
    (entropyWords (withLast idx x))[7].extractLsb' 0 3 = x.extractLsb' 8 3 ∧
    ∀ y : Index, x.extractLsb' 8 3 = y.extractLsb' 8 3 → entropyWords (withLast idx x) = entropyWords (withLast idx y)

/-- R89: the worked example IDX[i] = i. -/
def Obligations.PackOfTheRampExample : Prop :=
  entropyWords (Vector.ofFn fun i => BitVec.ofNat 11 i.val) =
    #v[0x00000401, 0x00300801, 0x40300701, 0x00240500, 0xB0180340, 0x700F0200, 0x44090130, 0x280540B0] ∧
  expectedChecksum (Vector.ofFn fun i => BitVec.ofNat 11 i.val) = 0x17#8

/-! ### SHA-256 -/

/-- R91: ROTR and SHR, bit by bit. -/
def Obligations.RotateAndShiftMoveEachBit : Prop :=
  ∀ (n : Nat) (x : Word) (i : Nat), 0 < n → n < 32 → i < 32 →
    (rotr n x).getLsbD i = x.getLsbD ((i + n) % 32) ∧
    (shr n x).getLsbD i = (if i + n < 32 then x.getLsbD (i + n) else false)

/-- R92, R93: choice and majority, bit by bit, and the four sigma functions over the standard right rotation and shift. -/
def Obligations.HashFunctionsAreTheStandardOnes : Prop :=
  ∀ (x y z : Word) (i : Nat), i < 32 →
    (ch x y z).getLsbD i = (if x.getLsbD i then y.getLsbD i else z.getLsbD i) ∧
    ((maj x y z).getLsbD i = true ↔
      2 ≤ (x.getLsbD i).toNat + (y.getLsbD i).toNat + (z.getLsbD i).toNat) ∧
    bigSigma0 x = x.rotateRight 2 ^^^ x.rotateRight 13 ^^^ x.rotateRight 22 ∧
    bigSigma1 x = x.rotateRight 6 ^^^ x.rotateRight 11 ^^^ x.rotateRight 25 ∧
    smallSigma0 x = x.rotateRight 7 ^^^ x.rotateRight 18 ^^^ x >>> 3 ∧
    smallSigma1 x = x.rotateRight 17 ^^^ x.rotateRight 19 ^^^ x >>> 10

/-- R94, R95: each K[t] is the first 32 bits of the fractional part of the cube root of the (t+1)-th prime, and each word of
H(0) of the square root of one of the first eight primes. -/
def Obligations.HashConstantsAreRootsOfPrimes : Prop :=
  let primes := (List.range 312).filter fun n => decide (Nat.Prime n)
  let h := [initialHash.a, initialHash.b, initialHash.c, initialHash.d, initialHash.e, initialHash.f, initialHash.g,
    initialHash.h]
  primes.length = 64 ∧ roundConstants.length = 64 ∧
    (∀ t < 64, ∃ a < 8, (a * 2 ^ 32 + (roundConstants.getD t 0).toNat) ^ 3 ≤ primes.getD t 0 * 2 ^ 96 ∧
      primes.getD t 0 * 2 ^ 96 < (a * 2 ^ 32 + (roundConstants.getD t 0).toNat + 1) ^ 3) ∧
    (∀ k < 8, ∃ a < 8, (a * 2 ^ 32 + (h.getD k 0).toNat) ^ 2 ≤ primes.getD k 0 * 2 ^ 64 ∧
      primes.getD k 0 * 2 ^ 64 < (a * 2 ^ 32 + (h.getD k 0).toNat + 1) ^ 2)

/-- R97: the message schedule has 64 words, the first 16 those of the message, each later one by the recurrence. -/
def Obligations.ScheduleFollowsTheRecurrence : Prop :=
  ∀ m : List Word, m.length = 16 →
    (schedule m).length = 64 ∧
    (∀ t, t < 16 → (schedule m).getD t 0 = m.getD t 0) ∧
    ∀ t, 16 ≤ t → t < 64 →
      (schedule m).getD t 0 =
        smallSigma1 ((schedule m).getD (t - 2) 0) + (schedule m).getD (t - 7) 0 +
          smallSigma0 ((schedule m).getD (t - 15) 0) + (schedule m).getD (t - 16) 0

/-- R98: 64 rounds in order from H(0), all eight assignments of a round using the values from before it. -/
def Obligations.CompressionRunsTheSixtyFourRounds : Prop :=
  ∀ w : List Word, w.length = 64 → ∃ v : Nat → HashWords,
    v 0 = initialHash ∧ compress w = v 64 ∧
    ∀ t, t < 64 →
      let t1 := (v t).h + bigSigma1 (v t).e + ch (v t).e (v t).f (v t).g + roundConstants.getD t 0 + w.getD t 0
      let t2 := bigSigma0 (v t).a + maj (v t).a (v t).b (v t).c
      (v (t + 1)).h = (v t).g ∧ (v (t + 1)).g = (v t).f ∧ (v (t + 1)).f = (v t).e ∧ (v (t + 1)).e = (v t).d + t1 ∧
        (v (t + 1)).d = (v t).c ∧ (v (t + 1)).c = (v t).b ∧ (v (t + 1)).b = (v t).a ∧ (v (t + 1)).a = t1 + t2

/-- R96, R99, R100: the hash of every message. The padded message is the eight entropy words, the word 0x80000000, six zero
words and the bit length 0x00000100; the digest is H(0) plus, word by word, the compression of its schedule. -/
def Obligations.HashIsThePaddedCompression : Prop :=
  ∀ ent : Vector Word 8,
    let v := compress (schedule
      [ent[0], ent[1], ent[2], ent[3], ent[4], ent[5], ent[6], ent[7],
        0x80000000#32, 0#32, 0#32, 0#32, 0#32, 0#32, 0#32, 0x00000100#32])
    let h := sha256 ent
    h[0] = initialHash.a + v.a ∧ h[1] = initialHash.b + v.b ∧ h[2] = initialHash.c + v.c ∧ h[3] = initialHash.d + v.d ∧
      h[4] = initialHash.e + v.e ∧ h[5] = initialHash.f + v.f ∧ h[6] = initialHash.g + v.g ∧ h[7] = initialHash.h + v.h

/-- R104 (its example): the digest of the 32 zero bytes. -/
def Obligations.DigestOfThirtyTwoZeroBytes : Prop :=
  sha256 (Vector.replicate 8 0#32) =
    #v[0x66687aad, 0xf862bd77, 0x6c8fc18b, 0x8e9f8e20, 0x08971485, 0x6ee233b3, 0x902a591d, 0x0d5f2925]

/-! ### The checksum test and the search -/

/-- R102: in each aligned block 256m .. 256m + 255 exactly one last index is valid, 256m plus the first digest byte of the
entropy with those three bits. -/
def Obligations.EachBlockHasOneValidLastIndex : Prop :=
  ∀ (idx : Vector Index 24) (m : Fin 8), ∃ d : Byte, ∀ x : Index, x.toNat / 256 = m.val →
    (check (withLast idx x)).csumCalc = d ∧ ((check (withLast idx x)).ok = true ↔ x.toNat = 256 * m.val + d.toNat)

/-- R102: exactly 8 of the 2048 last indices are valid. -/
def Obligations.EightLastIndicesAreValid : Prop :=
  ∀ idx : Vector Index 24,
    ((List.range 2048).filter fun n => (check (withLast idx (BitVec.ofNat 11 n))).ok).length = 8

/-- R107: the offsets 1 .. 2047 reach every index but the base, each exactly once; the candidate wraps modulo 2048. -/
def Obligations.CandidatesAreAllOtherIndices : Prop :=
  ∀ base x : Index,
    (x ≠ base ↔ ∃! ofs : Nat, 1 ≤ ofs ∧ ofs ≤ 2047 ∧ candidate base ofs = x) ∧
    ∀ ofs : Nat, 1 ≤ ofs → ofs ≤ 2047 →
      (candidate base ofs).toNat = (if 2048 ≤ base.toNat + ofs then base.toNat + ofs - 2048 else base.toNat + ofs)

/-- R106, R108: a successful search returns the smallest offset whose candidate is valid, and that candidate; a failed one
tried every offset and returns the base. -/
def Obligations.SearchReturnsTheSmallestOffset : Prop :=
  ∀ idx : Vector Index 24,
    ((search idx).found = true →
      1 ≤ (search idx).kd.toNat ∧ (search idx).last = idx[23] + (search idx).kd ∧
      (check (withLast idx (search idx).last)).ok = true ∧
      ∀ ofs : Nat, 1 ≤ ofs → ofs < (search idx).kd.toNat →
        (check (withLast idx (idx[23] + BitVec.ofNat 11 ofs))).ok = false) ∧
    ((search idx).found = false →
      (search idx).kd = 0#11 ∧ (search idx).last = idx[23] ∧
      ∀ ofs : Nat, 1 ≤ ofs → ofs ≤ 2047 → (check (withLast idx (idx[23] + BitVec.ofNat 11 ofs))).ok = false)

/-- R110: the search succeeds on every input, within 511 offsets. -/
def Obligations.SearchSucceedsWithin511Offsets : Prop :=
  ∀ idx : Vector Index 24,
    (search idx).found = true ∧ 1 ≤ (search idx).kd.toNat ∧ (search idx).kd.toNat ≤ 511

/-- R110, R113, R30: every CORRECT that completes ends with FOUND = 1, EXHAUSTED = 0, CSUM_OK = 1 and valid indices, the last
one shifted by KD, 1 <= KD <= 511. -/
def Obligations.CorrectAlwaysRepairsTheChecksum : Prop :=
  ∀ s : State, s.Completes .correct → ∃ t, step s = .next t ∧
    t.block.status.found = true ∧ t.block.status.exhausted = false ∧ t.block.status.csumOk = true ∧
    (check t.block.idx).ok = true ∧ 1 ≤ t.block.kd.toNat ∧ t.block.kd.toNat ≤ 511 ∧
    t.block.idx[23] = s.block.idx[23] + t.block.kd ∧ ∀ i : Fin 24, i.val < 23 → t.block.idx[i] = s.block.idx[i]

/-- R114: CORRECT on already valid indices raises no error and gives another, also valid, last index. -/
def Obligations.CorrectOnValidIndicesChangesTheLast : Prop :=
  ∀ s : State, s.Completes .correct → (check s.block.idx).ok = true → ∃ t, step s = .next t ∧
    t.block.idx[23] ≠ s.block.idx[23] ∧ (check t.block.idx).ok = true ∧ t.block.kd ≠ 0#11 ∧
    t.block.status.found = true ∧ t.block.status.csumOk = true ∧
    t.block.status.cmdErr = s.block.status.cmdErr ∧ t.block.status.busyErr = s.block.status.busyErr

/-- R110, R115: EXHAUSTED is never set: a state with EXHAUSTED = 0 is followed only by such states. -/
def Obligations.ExhaustedIsNeverSet : Prop :=
  ∀ s t : State, s.block.status.exhausted = false → step s = .next t → t.block.status.exhausted = false

/-! ### The whole machine -/

/-- R44 with R28, R41: the invariant holds after reset. -/
def Obligations.ResetStateMeetsTheInvariants : Prop := State.reset.Inv

/-- R28, R30, R35, R36, R41 and the other relations of `Block.Inv`: every step keeps them, from every state that has them. -/
def Obligations.EveryStepKeepsTheInvariants : Prop :=
  ∀ s t : State, s.Inv → step s = .next t → t.Inv

/-- R31, R134: a set error bit stays set until CLRERR is written while BUSY = 0, or reset. -/
def Obligations.ErrorBitsAreSticky : Prop :=
  ∀ s t : State, step s = .next t →
    (s.block.status.cmdErr = true ∧ t.block.status.cmdErr = false ∨
      s.block.status.busyErr = true ∧ t.block.status.busyErr = false) →
    (∃ rest, s.inputs = .reset :: rest) ∨
      (s.block.status.busy = false ∧ ∃ p rest, s.inputs = .write p 4 0x00000004#32 :: rest ∧ p.resolve = some 0x00#8)

/-- R22, R23: an index register changes only by a host write to it while BUSY = 0, by reset, or, for IDX[23] alone, by the
completion of CORRECT. -/
def Obligations.IndicesChangeOnlyByHostWriteOrCorrect : Prop :=
  ∀ (s t : State) (i : Fin 24), step s = .next t → t.block.idx[i] ≠ s.block.idx[i] →
    (∃ rest, s.inputs = .reset :: rest) ∨
      (s.block.status.busy = false ∧
        ∃ p v rest, s.inputs = .write p 4 v :: rest ∧ p.resolve = some (Reg.idx i).offset ∧
          t.block.idx[i] = v.extractLsb' 0 11) ∨
      (i.val = 23 ∧ s.block.seq = .run .correct ∧ t.block.seq = .idle)

/-- R36, R46: BASE changes only at the acceptance of CORRECT, to the IDX[23] of that moment, or by reset. -/
def Obligations.BaseChangesOnlyAtCorrectAcceptance : Prop :=
  ∀ s t : State, step s = .next t → t.block.base ≠ s.block.base →
    (∃ rest, s.inputs = .reset :: rest) ∨
      (s.block.status.busy = false ∧ t.block.base = s.block.idx[23] ∧ t.block.seq = .run .correct ∧
        ∃ p rest, s.inputs = .write p 4 0x00000003#32 :: rest ∧ p.resolve = some 0x00#8)

/-- R35, R46: ENTROPY and CSUM_EXP change only at a completion step or by reset; DIGEST and CSUM_CALC only at the completion of
VERIFY or CORRECT or by reset; KD only at the completion of CORRECT, by reset, or, to 0, at the acceptance of PACK, VERIFY or
CORRECT. -/
def Obligations.ResultsChangeOnlyAtCompletion : Prop :=
  ∀ s t : State, step s = .next t → (∀ rest, s.inputs ≠ .reset :: rest) →
    ((t.block.entropy ≠ s.block.entropy ∨ t.block.csumExp ≠ s.block.csumExp) → ∃ op, s.Completes op) ∧
    ((t.block.digest ≠ s.block.digest ∨ t.block.csumCalc ≠ s.block.csumCalc) →
      s.Completes .verify ∨ s.Completes .correct) ∧
    (t.block.kd ≠ s.block.kd → s.Completes .correct ∨
      (s.block.status.busy = false ∧ t.block.kd = 0#11 ∧
        ∃ p v rest, s.inputs = .write p 4 v :: rest ∧ p.resolve = some 0x00#8 ∧
          (v = 0x00000001#32 ∧ t.block.seq = .run .pack ∨ v = 0x00000002#32 ∧ t.block.seq = .run .verify ∨
            v = 0x00000003#32 ∧ t.block.seq = .run .correct)))

/-- R54: a read changes no register, STATUS included, whether or not BUSY = 1. -/
def Obligations.ReadsHaveNoSideEffects : Prop :=
  ∀ (s : State) (p : Place) (off : Offset) (rest : List Input),
    s.Issues (.read p 4) rest → p.resolve = some off → off.toNat % 4 = 0 →
    ∃ t v, step s = .next t ∧ t.block = s.block ∧ t.inputs = rest ∧
      t.trace = { dir := .read, off := off, data := v } :: s.trace

/-- R56, R58: any number of host accesses may come before a pending completion step, and none of them changes what the command
writes: after them and the completion step the block is the one the command makes of the block as it first stood, but for
BUSY_ERR. The number of accesses is the model's field `delay`, an open value (log entry 2). -/
def Obligations.ResultsDoNotDependOnTheInterleaving : Prop :=
  ∀ (s : State) (op : RunOp) (xs rest : List Input),
    s.resetDone = true → s.block.status.busy = true → s.block.seq = .run op →
    (∀ x ∈ xs, x.access = true) → s.inputs = xs ++ rest → s.delay = xs.length → rest.head? ≠ some .reset →
    ∃ (t : State) (e : Bool), Sys2Proof.core.run (xs.length + 1) s = .next t ∧ t.inputs = rest ∧
      (s.block.status.busyErr = true → e = true) ∧
      t.block = { s.block.complete op with status := { (s.block.complete op).status with busyErr := e } }

/-- R56, R58, R149, R150: whatever the next input is (an access by offset or by host address, a WAIT, none at all), a step of a
running command that is no reset either is its completion step, or takes one step off its remaining latency and leaves the
block, and so what the command will make of it, as they were but for BUSY_ERR. The latency is the model's field `delay`, and
`State.Completes` says when the completion comes (log entries 2 and 6). -/
def Obligations.EveryStepNearsTheCompletion : Prop :=
  ∀ (s t : State) (op : RunOp), s.block.status.busy = true → s.block.seq = .run op → s.inputs.head? ≠ some .reset →
    step s = .next t →
    (s.Completes op ∧ t.block = s.block.complete op) ∨
      (s.inputs ≠ [] ∧ t.delay + 1 = s.delay ∧ ∃ e : Bool, (s.block.status.busyErr = true → e = true) ∧
        t.block = { s.block with status := { s.block.status with busyErr := e } } ∧
        t.block.complete op = { s.block.complete op with status := { (s.block.complete op).status with busyErr := e } })

/-- R150: a running command completes after a finite number of steps, bounded by its remaining latency, under any supported
host accesses with no reset among them. That it also completes when the host issues nothing more, and the bound itself, are
the model's form of fairness (log entries 2 and 6). -/
def Obligations.EveryAcceptedCommandCompletes : Prop :=
  ∀ (s : State) (op : RunOp), s.resetDone = true → s.block.status.busy = true → s.block.seq = .run op →
    (∀ x ∈ s.inputs, x.access = true) →
    ∃ n t, n ≤ s.delay + 1 ∧ Sys2Proof.core.run n s = .next t ∧ t.block.seq = .idle ∧ t.block.status.busy = false ∧
      t.block.status.done = true

/-- R78, R158: WAIT with more fuel than the command's remaining latency ends after the command has completed, its last read
of STATUS showing BUSY = 0; with no more fuel than that, it stops with no result, in the model a fault (log entry 12). The
latency is counted in host steps (log entry 2). -/
def Obligations.WaitEndsWithTheCommandOrWithoutResult : Prop :=
  ∀ (s : State) (op : RunOp) (fuel : Nat) (rest : List Input),
    s.resetDone = true → s.block.status.busy = true → s.block.seq = .run op → s.inputs = .wait fuel :: rest →
    (s.delay < fuel → ∃ t a, Sys2Proof.core.run (s.delay + 2) s = .next t ∧ t.block = s.block.complete op ∧
      t.inputs = rest ∧ t.trace.head? = some a ∧ a.dir = .read ∧ a.off = 0x04#8 ∧ a.data.getLsbD 0 = false) ∧
    (fuel ≤ s.delay → ∃ n, Sys2Proof.core.run n s = .fault .waitOutOfFuel)

/-- R78, R120, R147: LOADIDX on an idle block writes all 24 index registers, in 24 steps, and no other register. -/
def Obligations.LoadIdxWritesAllIndices : Prop :=
  ∀ (s : State) (v : Vector Word 24) (rest : List Input),
    s.resetDone = true → s.block.seq = .idle → s.block.status.busy = false → s.inputs = loadIdx v ++ rest →
    ∃ t, Sys2Proof.core.run 24 s = .next t ∧ t.inputs = rest ∧
      (∀ i : Fin 24, t.block.idx[i] = v[i].extractLsb' 0 11) ∧ t.block = { s.block with idx := t.block.idx }

/-- R41, R151: while a command runs the host learns nothing of the result registers: two states that differ only in them
give, on the same access, the same record, and differ only in them afterwards. -/
def Obligations.RunningResultsAreUnobservable : Prop :=
  ∀ (s s' : State) (x : Input) (rest : List Input),
    s.SameView s' → s.block.status.busy = true → s.block.seq ≠ .idle → s.Issues x rest → x.access = true →
    ∃ t t', step s = .next t ∧ step s' = .next t' ∧ t.trace = t'.trace ∧ t.SameView t'
end

