-- ==== Sys2Proof/Laws/State.lean ====
section
/-! SUPPORT. Laws/State.lean: one lemma for each field after each update, so that no later proof unfolds a record update. -/

namespace Sys2Proof.Machine

variable (s : State) (b : Block) (st : Status)

/-! ### The state: a change of the block -/

@[simp] theorem State.onBlock_block (f : Block → Block) : (s.onBlock f).block = f s.block := rfl
@[simp] theorem State.onBlock_resetDone (f : Block → Block) : (s.onBlock f).resetDone = s.resetDone := rfl
@[simp] theorem State.onBlock_inputs (f : Block → Block) : (s.onBlock f).inputs = s.inputs := rfl
@[simp] theorem State.onBlock_trace (f : Block → Block) : (s.onBlock f).trace = s.trace := rfl
@[simp] theorem State.onBlock_delay (f : Block → Block) : (s.onBlock f).delay = s.delay := rfl
@[simp] theorem State.onBlock_accepted (f : Block → Block) : (s.onBlock f).accepted = s.accepted := rfl
@[simp] theorem State.onBlock_draws (f : Block → Block) : (s.onBlock f).draws = s.draws := rfl

/-! ### The host's record -/

@[simp] theorem State.record_block (a : Access) : (s.record a).block = s.block := rfl
@[simp] theorem State.record_resetDone (a : Access) : (s.record a).resetDone = s.resetDone := rfl
@[simp] theorem State.record_inputs (a : Access) : (s.record a).inputs = s.inputs := rfl
@[simp] theorem State.record_trace (a : Access) : (s.record a).trace = a :: s.trace := rfl
@[simp] theorem State.record_delay (a : Access) : (s.record a).delay = s.delay := rfl
@[simp] theorem State.record_accepted (a : Access) : (s.record a).accepted = s.accepted := rfl
@[simp] theorem State.record_draws (a : Access) : (s.record a).draws = s.draws := rfl

/-! ### Taking an input -/

@[simp] theorem State.takeInput_block (rest : List Input) : (s.takeInput rest).block = s.block := rfl
@[simp] theorem State.takeInput_resetDone (rest : List Input) : (s.takeInput rest).resetDone = s.resetDone := rfl
@[simp] theorem State.takeInput_inputs (rest : List Input) : (s.takeInput rest).inputs = rest := rfl
@[simp] theorem State.takeInput_trace (rest : List Input) : (s.takeInput rest).trace = s.trace := rfl
@[simp] theorem State.takeInput_delay (rest : List Input) : (s.takeInput rest).delay = s.delay - 1 := rfl
@[simp] theorem State.takeInput_accepted (rest : List Input) : (s.takeInput rest).accepted = s.accepted := rfl
@[simp] theorem State.takeInput_draws (rest : List Input) : (s.takeInput rest).draws = s.draws := rfl

/-! ### The busy error -/

@[simp] theorem raiseBusy_block : (raiseBusy s).block = { s.block with status := s.block.status.raiseBusy } := rfl
@[simp] theorem raiseBusy_resetDone : (raiseBusy s).resetDone = s.resetDone := rfl
@[simp] theorem raiseBusy_inputs : (raiseBusy s).inputs = s.inputs := rfl
@[simp] theorem raiseBusy_trace : (raiseBusy s).trace = s.trace := rfl
@[simp] theorem raiseBusy_delay : (raiseBusy s).delay = s.delay := rfl
@[simp] theorem raiseBusy_accepted : (raiseBusy s).accepted = s.accepted := rfl
@[simp] theorem raiseBusy_draws : (raiseBusy s).draws = s.draws := rfl

/-! ### The command error -/

@[simp] theorem raiseCommand_block : (raiseCommand s).block = { s.block with status := s.block.status.raiseCommand } := rfl
@[simp] theorem raiseCommand_resetDone : (raiseCommand s).resetDone = s.resetDone := rfl
@[simp] theorem raiseCommand_inputs : (raiseCommand s).inputs = s.inputs := rfl
@[simp] theorem raiseCommand_trace : (raiseCommand s).trace = s.trace := rfl
@[simp] theorem raiseCommand_delay : (raiseCommand s).delay = s.delay := rfl
@[simp] theorem raiseCommand_accepted : (raiseCommand s).accepted = s.accepted := rfl
@[simp] theorem raiseCommand_draws : (raiseCommand s).draws = s.draws := rfl

/-! ### Acceptance -/

@[simp] theorem accept_block (op : RunOp) : (accept op s).block = s.block.accept op := rfl
@[simp] theorem accept_resetDone (op : RunOp) : (accept op s).resetDone = s.resetDone := rfl
@[simp] theorem accept_inputs (op : RunOp) : (accept op s).inputs = s.inputs := rfl
@[simp] theorem accept_trace (op : RunOp) : (accept op s).trace = s.trace := rfl
@[simp] theorem accept_delay (op : RunOp) : (accept op s).delay = latency op s.accepted := rfl
@[simp] theorem accept_accepted (op : RunOp) : (accept op s).accepted = s.accepted + 1 := rfl
@[simp] theorem accept_draws (op : RunOp) : (accept op s).draws = s.draws := rfl

/-! ### The reset input -/

@[simp] theorem assertReset_block (rest : List Input) : (assertReset rest s).block = Block.reset := rfl
@[simp] theorem assertReset_resetDone (rest : List Input) : (assertReset rest s).resetDone = true := rfl
@[simp] theorem assertReset_inputs (rest : List Input) : (assertReset rest s).inputs = rest := rfl
@[simp] theorem assertReset_trace (rest : List Input) : (assertReset rest s).trace = s.trace := rfl
@[simp] theorem assertReset_delay (rest : List Input) : (assertReset rest s).delay = 0 := rfl
@[simp] theorem assertReset_accepted (rest : List Input) : (assertReset rest s).accepted = s.accepted := rfl
@[simp] theorem assertReset_draws (rest : List Input) : (assertReset rest s).draws = s.draws := rfl

/-! ### The completion step -/

@[simp] theorem completionStep_block (op : RunOp) : (completionStep op s).block = s.block.complete op := rfl
@[simp] theorem completionStep_resetDone (op : RunOp) : (completionStep op s).resetDone = s.resetDone := rfl
@[simp] theorem completionStep_inputs (op : RunOp) : (completionStep op s).inputs = s.inputs := rfl
@[simp] theorem completionStep_trace (op : RunOp) : (completionStep op s).trace = s.trace := rfl
@[simp] theorem completionStep_delay (op : RunOp) : (completionStep op s).delay = 0 := rfl
@[simp] theorem completionStep_accepted (op : RunOp) : (completionStep op s).accepted = s.accepted := rfl
@[simp] theorem completionStep_draws (op : RunOp) : (completionStep op s).draws = s.draws := rfl

/-! ### The next command -/

@[simp] theorem State.withNextCommand_block (v : Word) : (s.withNextCommand v).block = s.block := rfl
@[simp] theorem State.withNextCommand_resetDone (v : Word) : (s.withNextCommand v).resetDone = true := rfl
@[simp] theorem State.withNextCommand_inputs (v : Word) : (s.withNextCommand v).inputs = writeReg .cmd v :: s.inputs := rfl
@[simp] theorem State.withNextCommand_trace (v : Word) : (s.withNextCommand v).trace = s.trace := rfl
@[simp] theorem State.withNextCommand_accepted (v : Word) : (s.withNextCommand v).accepted = s.accepted := rfl
@[simp] theorem State.withNextCommand_draws (v : Word) : (s.withNextCommand v).draws = s.draws := rfl

/-! ### STATUS at acceptance -/

@[simp] theorem Status.accept_busy : (st.accept).busy = true := rfl
@[simp] theorem Status.accept_done : (st.accept).done = false := rfl
@[simp] theorem Status.accept_csumOk : (st.accept).csumOk = false := rfl
@[simp] theorem Status.accept_found : (st.accept).found = false := rfl
@[simp] theorem Status.accept_exhausted : (st.accept).exhausted = false := rfl
@[simp] theorem Status.accept_cmdErr : (st.accept).cmdErr = st.cmdErr := rfl
@[simp] theorem Status.accept_busyErr : (st.accept).busyErr = st.busyErr := rfl

/-! ### STATUS at completion -/

@[simp] theorem Status.complete_busy : (st.complete).busy = false := rfl
@[simp] theorem Status.complete_done : (st.complete).done = true := rfl
@[simp] theorem Status.complete_csumOk : (st.complete).csumOk = st.csumOk := rfl
@[simp] theorem Status.complete_found : (st.complete).found = st.found := rfl
@[simp] theorem Status.complete_exhausted : (st.complete).exhausted = st.exhausted := rfl
@[simp] theorem Status.complete_cmdErr : (st.complete).cmdErr = st.cmdErr := rfl
@[simp] theorem Status.complete_busyErr : (st.complete).busyErr = st.busyErr := rfl

/-! ### STATUS at the completion of VERIFY -/

@[simp] theorem Status.completeVerify_busy (ok : Bool) : (st.completeVerify ok).busy = false := rfl
@[simp] theorem Status.completeVerify_done (ok : Bool) : (st.completeVerify ok).done = true := rfl
@[simp] theorem Status.completeVerify_csumOk (ok : Bool) : (st.completeVerify ok).csumOk = ok := rfl
@[simp] theorem Status.completeVerify_found (ok : Bool) : (st.completeVerify ok).found = st.found := rfl
@[simp] theorem Status.completeVerify_exhausted (ok : Bool) : (st.completeVerify ok).exhausted = st.exhausted := rfl
@[simp] theorem Status.completeVerify_cmdErr (ok : Bool) : (st.completeVerify ok).cmdErr = st.cmdErr := rfl
@[simp] theorem Status.completeVerify_busyErr (ok : Bool) : (st.completeVerify ok).busyErr = st.busyErr := rfl

/-! ### STATUS at the completion of CORRECT -/

@[simp] theorem Status.completeCorrect_busy (found ok : Bool) : (st.completeCorrect found ok).busy = false := rfl
@[simp] theorem Status.completeCorrect_done (found ok : Bool) : (st.completeCorrect found ok).done = true := rfl
@[simp] theorem Status.completeCorrect_csumOk (found ok : Bool) : (st.completeCorrect found ok).csumOk = ok := rfl
@[simp] theorem Status.completeCorrect_found (found ok : Bool) : (st.completeCorrect found ok).found = found := rfl
@[simp] theorem Status.completeCorrect_exhausted (found ok : Bool) : (st.completeCorrect found ok).exhausted = !found := rfl
@[simp] theorem Status.completeCorrect_cmdErr (found ok : Bool) : (st.completeCorrect found ok).cmdErr = st.cmdErr := rfl
@[simp] theorem Status.completeCorrect_busyErr (found ok : Bool) : (st.completeCorrect found ok).busyErr = st.busyErr := rfl

/-! ### STATUS after a busy error -/

@[simp] theorem Status.raiseBusy_busy : (st.raiseBusy).busy = st.busy := rfl
@[simp] theorem Status.raiseBusy_done : (st.raiseBusy).done = st.done := rfl
@[simp] theorem Status.raiseBusy_csumOk : (st.raiseBusy).csumOk = st.csumOk := rfl
@[simp] theorem Status.raiseBusy_found : (st.raiseBusy).found = st.found := rfl
@[simp] theorem Status.raiseBusy_exhausted : (st.raiseBusy).exhausted = st.exhausted := rfl
@[simp] theorem Status.raiseBusy_cmdErr : (st.raiseBusy).cmdErr = st.cmdErr := rfl
@[simp] theorem Status.raiseBusy_busyErr : (st.raiseBusy).busyErr = true := rfl

/-! ### STATUS after a command error -/

@[simp] theorem Status.raiseCommand_busy : (st.raiseCommand).busy = st.busy := rfl
@[simp] theorem Status.raiseCommand_done : (st.raiseCommand).done = st.done := rfl
@[simp] theorem Status.raiseCommand_csumOk : (st.raiseCommand).csumOk = st.csumOk := rfl
@[simp] theorem Status.raiseCommand_found : (st.raiseCommand).found = st.found := rfl
@[simp] theorem Status.raiseCommand_exhausted : (st.raiseCommand).exhausted = st.exhausted := rfl
@[simp] theorem Status.raiseCommand_cmdErr : (st.raiseCommand).cmdErr = true := rfl
@[simp] theorem Status.raiseCommand_busyErr : (st.raiseCommand).busyErr = st.busyErr := rfl

/-! ### STATUS after CLRERR -/

@[simp] theorem Status.clearErrors_busy : (st.clearErrors).busy = st.busy := rfl
@[simp] theorem Status.clearErrors_done : (st.clearErrors).done = st.done := rfl
@[simp] theorem Status.clearErrors_csumOk : (st.clearErrors).csumOk = st.csumOk := rfl
@[simp] theorem Status.clearErrors_found : (st.clearErrors).found = st.found := rfl
@[simp] theorem Status.clearErrors_exhausted : (st.clearErrors).exhausted = st.exhausted := rfl
@[simp] theorem Status.clearErrors_cmdErr : (st.clearErrors).cmdErr = false := rfl
@[simp] theorem Status.clearErrors_busyErr : (st.clearErrors).busyErr = false := rfl

/-! ### The block at acceptance -/

@[simp] theorem Block.accept_idx (op : RunOp) : (b.accept op).idx = b.idx := rfl
@[simp] theorem Block.accept_status (op : RunOp) : (b.accept op).status = b.status.accept := rfl
@[simp] theorem Block.accept_kd (op : RunOp) : (b.accept op).kd = 0#11 := rfl
@[simp] theorem Block.accept_base (op : RunOp) : (b.accept op).base = if op = .correct then lastIndex b.idx else b.base := rfl
@[simp] theorem Block.accept_csumExp (op : RunOp) : (b.accept op).csumExp = b.csumExp := rfl
@[simp] theorem Block.accept_csumCalc (op : RunOp) : (b.accept op).csumCalc = b.csumCalc := rfl
@[simp] theorem Block.accept_digest (op : RunOp) : (b.accept op).digest = b.digest := rfl
@[simp] theorem Block.accept_entropy (op : RunOp) : (b.accept op).entropy = b.entropy := rfl
@[simp] theorem Block.accept_seq (op : RunOp) : (b.accept op).seq = .run op := rfl

/-! ### The block after an index write -/

@[simp] theorem Block.setIdx_idx (i : Fin 24) (v : Word) : (b.setIdx i v).idx = b.idx.set i (indexOfData v) := rfl
@[simp] theorem Block.setIdx_status (i : Fin 24) (v : Word) : (b.setIdx i v).status = b.status := rfl
@[simp] theorem Block.setIdx_kd (i : Fin 24) (v : Word) : (b.setIdx i v).kd = b.kd := rfl
@[simp] theorem Block.setIdx_base (i : Fin 24) (v : Word) : (b.setIdx i v).base = b.base := rfl
@[simp] theorem Block.setIdx_csumExp (i : Fin 24) (v : Word) : (b.setIdx i v).csumExp = b.csumExp := rfl
@[simp] theorem Block.setIdx_csumCalc (i : Fin 24) (v : Word) : (b.setIdx i v).csumCalc = b.csumCalc := rfl
@[simp] theorem Block.setIdx_digest (i : Fin 24) (v : Word) : (b.setIdx i v).digest = b.digest := rfl
@[simp] theorem Block.setIdx_entropy (i : Fin 24) (v : Word) : (b.setIdx i v).entropy = b.entropy := rfl
@[simp] theorem Block.setIdx_seq (i : Fin 24) (v : Word) : (b.setIdx i v).seq = b.seq := rfl

/-! ### The block after the results of Check are written -/

@[simp] theorem Block.writeCheck_idx (r : CheckResult) : (b.writeCheck r).idx = b.idx := rfl
@[simp] theorem Block.writeCheck_status (r : CheckResult) : (b.writeCheck r).status = b.status := rfl
@[simp] theorem Block.writeCheck_kd (r : CheckResult) : (b.writeCheck r).kd = b.kd := rfl
@[simp] theorem Block.writeCheck_base (r : CheckResult) : (b.writeCheck r).base = b.base := rfl
@[simp] theorem Block.writeCheck_csumExp (r : CheckResult) : (b.writeCheck r).csumExp = r.csumExp := rfl
@[simp] theorem Block.writeCheck_csumCalc (r : CheckResult) : (b.writeCheck r).csumCalc = r.csumCalc := rfl
@[simp] theorem Block.writeCheck_digest (r : CheckResult) : (b.writeCheck r).digest = r.digest := rfl
@[simp] theorem Block.writeCheck_entropy (r : CheckResult) : (b.writeCheck r).entropy = r.entropy := rfl
@[simp] theorem Block.writeCheck_seq (r : CheckResult) : (b.writeCheck r).seq = b.seq := rfl

/-! ### The block after PACK -/

@[simp] theorem completePack_idx : (completePack b).idx = b.idx := rfl
@[simp] theorem completePack_status : (completePack b).status = b.status.complete := rfl
@[simp] theorem completePack_kd : (completePack b).kd = b.kd := rfl
@[simp] theorem completePack_base : (completePack b).base = b.base := rfl
@[simp] theorem completePack_csumExp : (completePack b).csumExp = expectedChecksum b.idx := rfl
@[simp] theorem completePack_csumCalc : (completePack b).csumCalc = b.csumCalc := rfl
@[simp] theorem completePack_digest : (completePack b).digest = b.digest := rfl
@[simp] theorem completePack_entropy : (completePack b).entropy = entropyWords b.idx := rfl
@[simp] theorem completePack_seq : (completePack b).seq = .idle := rfl

/-! ### The block after VERIFY -/

@[simp] theorem completeVerify_idx : (completeVerify b).idx = b.idx := rfl
@[simp] theorem completeVerify_status : (completeVerify b).status = b.status.completeVerify (check b.idx).ok := rfl
@[simp] theorem completeVerify_kd : (completeVerify b).kd = b.kd := rfl
@[simp] theorem completeVerify_base : (completeVerify b).base = b.base := rfl
@[simp] theorem completeVerify_csumExp : (completeVerify b).csumExp = (check b.idx).csumExp := rfl
@[simp] theorem completeVerify_csumCalc : (completeVerify b).csumCalc = (check b.idx).csumCalc := rfl
@[simp] theorem completeVerify_digest : (completeVerify b).digest = (check b.idx).digest := rfl
@[simp] theorem completeVerify_entropy : (completeVerify b).entropy = (check b.idx).entropy := rfl
@[simp] theorem completeVerify_seq : (completeVerify b).seq = .idle := rfl

/-! ### The block after CORRECT -/

@[simp] theorem completeCorrect_idx : (completeCorrect b).idx = withLast b.idx (search b.idx).last := rfl
@[simp] theorem completeCorrect_status : (completeCorrect b).status = b.status.completeCorrect (search b.idx).found (check (withLast b.idx (search b.idx).last)).ok := rfl
@[simp] theorem completeCorrect_kd : (completeCorrect b).kd = (search b.idx).kd := rfl
@[simp] theorem completeCorrect_base : (completeCorrect b).base = b.base := rfl
@[simp] theorem completeCorrect_csumExp : (completeCorrect b).csumExp = (check (withLast b.idx (search b.idx).last)).csumExp := rfl
@[simp] theorem completeCorrect_csumCalc : (completeCorrect b).csumCalc = (check (withLast b.idx (search b.idx).last)).csumCalc := rfl
@[simp] theorem completeCorrect_digest : (completeCorrect b).digest = (check (withLast b.idx (search b.idx).last)).digest := rfl
@[simp] theorem completeCorrect_entropy : (completeCorrect b).entropy = (check (withLast b.idx (search b.idx).last)).entropy := rfl
@[simp] theorem completeCorrect_seq : (completeCorrect b).seq = .idle := rfl

/-! ### The result of Check -/

theorem check_entropy (idx : Vector Index 24) : (check idx).entropy = entropyWords idx := rfl
theorem check_csumExp (idx : Vector Index 24) : (check idx).csumExp = expectedChecksum idx := rfl
theorem check_digest (idx : Vector Index 24) : (check idx).digest = sha256 (entropyWords idx) := rfl
theorem check_csumCalc (idx : Vector Index 24) : (check idx).csumCalc = firstByte (sha256 (entropyWords idx)) := rfl
theorem check_ok (idx : Vector Index 24) : (check idx).ok = (expectedChecksum idx == firstByte (sha256 (entropyWords idx))) := rfl

end Sys2Proof.Machine
end

