-- ==== Sys2Proof/Laws/Ops.lean ====
section
/-! SUPPORT. Laws/Ops.lean: what the shared operations and `exec` can do, said once. -/

namespace Sys2Proof.Machine

theorem command_of_busy {s : State} (h : s.block.status.busy = true) (f : State → State) :
    command f s = .next (raiseBusy s) := by simp [command, h]

theorem command_of_not_busy {s : State} (h : s.block.status.busy = false) (f : State → State) :
    command f s = .next (f s) := by simp [command, h]

/-- A command write is dropped while BUSY = 1, and otherwise has its effect. -/
theorem command_next {f : State → State} {s t : State} (h : command f s = .next t) :
    (s.block.status.busy = true ∧ t = raiseBusy s) ∨ (s.block.status.busy = false ∧ t = f s) := by
  cases hb : s.block.status.busy
  · rw [command_of_not_busy hb] at h; exact .inr ⟨rfl, (Host.Outcome.next.inj h).symm⟩
  · rw [command_of_busy hb] at h; exact .inl ⟨rfl, (Host.Outcome.next.inj h).symm⟩

/-- What the effect of each command is, when BUSY = 0. -/
def effect : Instr → State → State
  | .nop => fun s => s
  | .pack => accept .pack
  | .verify => accept .verify
  | .correct => accept .correct
  | .clrerr => fun s => s.onBlock fun b => { b with status := b.status.clearErrors }

/-- Every command is a command write with its effect. -/
theorem exec_eq_command (i : Instr) (s : State) : exec i s = command (effect i) s := by
  cases i <;> rfl

/-- What a command can do: BUSY_ERR alone, nothing, clearing the error bits, or acceptance. -/
theorem exec_next {i : Instr} {s t : State} (h : exec i s = .next t) :
    (s.block.status.busy = true ∧ t = raiseBusy s) ∨
      (s.block.status.busy = false ∧
        ((i = .nop ∧ t = s) ∨
          (i = .clrerr ∧ t = s.onBlock fun b => { b with status := b.status.clearErrors }) ∨
          (i = .pack ∧ t = accept .pack s) ∨ (i = .verify ∧ t = accept .verify s) ∨
          (i = .correct ∧ t = accept .correct s))) := by
  rw [exec_eq_command] at h
  rcases command_next h with h | ⟨hb, rfl⟩
  · exact .inl h
  · refine .inr ⟨hb, ?_⟩
    cases i <;> simp [effect]

end Sys2Proof.Machine
end

