-- ==== Sys2Proof/Laws/HostAccess.lean ====
section
/-! SUPPORT. Laws/HostAccess.lean: what a host access can do, said once, and the register map at its offsets. -/

namespace Sys2Proof.Machine

/-! ### The register map -/

@[simp] theorem regAt_cmd : regAt 0x00#8 = .cmd := rfl
@[simp] theorem regAt_status : regAt 0x04#8 = .status := rfl

theorem regAt_of_digest {off : Offset} {k : Fin 8} (h : off.toNat = 0x20 + 4 * k.val) : regAt off = .digest k := by
  have := k.isLt
  unfold regAt
  simp only [h]
  rw [if_neg (by omega), if_neg (by omega), if_neg (by omega), if_neg (by omega), if_neg (by omega),
    dif_pos (by omega)]
  congr 1; ext; simp

theorem regAt_of_entropy {off : Offset} {k : Fin 8} (h : off.toNat = 0x40 + 4 * k.val) : regAt off = .entropy k := by
  have := k.isLt
  unfold regAt
  simp only [h]
  rw [if_neg (by omega), if_neg (by omega), if_neg (by omega), if_neg (by omega), if_neg (by omega),
    dif_neg (by omega), dif_pos (by omega)]
  congr 1; ext; simp

theorem regAt_of_idx {off : Offset} {i : Fin 24} (h : off.toNat = 0x80 + 4 * i.val) : regAt off = .idx i := by
  have := i.isLt
  unfold regAt
  simp only [h]
  rw [if_neg (by omega), if_neg (by omega), if_neg (by omega), if_neg (by omega), if_neg (by omega),
    dif_neg (by omega), dif_neg (by omega), dif_pos (by omega)]
  congr 1; ext; simp

/-- An aligned offset that reaches `IDX[i]` is the offset of `IDX[i]`. -/
theorem offset_of_regAt_idx {off : Offset} {i : Fin 24} (ha : off.toNat % 4 = 0) (h : regAt off = .idx i) :
    off.toNat = 0x80 + 4 * i.val := by
  unfold regAt at h
  simp only at h
  split_ifs at h
  all_goals cases h
  simp; omega

/-- An offset that reaches CMD is 0. -/
theorem offset_of_regAt_cmd {off : Offset} (h : regAt off = .cmd) : off = 0x00#8 := by
  unfold regAt at h
  simp only at h
  split_ifs at h with h0
  exact BitVec.eq_of_toNat_eq h0

/-- `supported` in arithmetic. -/
theorem supported_iff {off : Offset} {width : Nat} : supported off width = true ↔ width = 4 ∧ off.toNat % 4 = 0 := by
  simp [supported, BitVec.toNat_eq]

/-! ### Reads -/

section
variable (off : Offset) (s : State)

@[simp] theorem memRead_block : (memRead off s).2.block = s.block := by unfold memRead; split <;> rfl
@[simp] theorem memRead_resetDone : (memRead off s).2.resetDone = s.resetDone := by unfold memRead; split <;> rfl
@[simp] theorem memRead_inputs : (memRead off s).2.inputs = s.inputs := by unfold memRead; split <;> rfl
@[simp] theorem memRead_trace : (memRead off s).2.trace = s.trace := by unfold memRead; split <;> rfl
@[simp] theorem memRead_delay : (memRead off s).2.delay = s.delay := by unfold memRead; split <;> rfl
@[simp] theorem memRead_accepted : (memRead off s).2.accepted = s.accepted := by unfold memRead; split <;> rfl

@[simp] theorem hostRead_block : (hostRead off s).block = s.block := by simp [hostRead]
@[simp] theorem hostRead_resetDone : (hostRead off s).resetDone = s.resetDone := by simp [hostRead]
@[simp] theorem hostRead_inputs : (hostRead off s).inputs = s.inputs := by simp [hostRead]
@[simp] theorem hostRead_trace :
    (hostRead off s).trace = { dir := .read, off := off, data := (memRead off s).1 } :: s.trace := by simp [hostRead]
@[simp] theorem hostRead_delay : (hostRead off s).delay = s.delay := by simp [hostRead]
@[simp] theorem hostRead_accepted : (hostRead off s).accepted = s.accepted := by simp [hostRead]
end

/-- A read that R151 leaves unspecified is the next draw. -/
theorem memRead_of_unspecified {off : Offset} {s : State} (h : s.block.readsUnspecified (regAt off) = true) :
    memRead off s = (Config.draw s.draws, { s with draws := s.draws + 1 }) := by simp [memRead, h]

/-- Every other read is the register's value. -/
theorem memRead_of_specified {off : Offset} {s : State} (h : s.block.readsUnspecified (regAt off) = false) :
    memRead off s = (s.block.regValue (regAt off), s) := by simp [memRead, h]

/-- While BUSY = 0 every read is specified. -/
theorem readsUnspecified_of_not_busy {b : Block} (h : b.status.busy = false) (r : Reg) : b.readsUnspecified r = false := by
  cases r <;> simp [Block.readsUnspecified, h]

/-- A read of STATUS is always specified (R151). -/
@[simp] theorem memRead_status (s : State) : memRead 0x04#8 s = (s.block.status.word, s) := by
  rw [memRead_of_specified (by rfl)]; rfl

theorem status_word_busy (st : Status) : st.word.getLsbD 0 = st.busy := by
  obtain ⟨b, d, c, f, x, ce, be⟩ := st
  revert b d c f x ce be
  decide

/-! ### Writes -/

theorem idxWrite_of_busy {i : Fin 24} {v : Word} {s : State} (h : s.block.status.busy = true) :
    idxWrite i v s = raiseBusy s := by simp [idxWrite, h]

theorem idxWrite_of_not_busy {i : Fin 24} {v : Word} {s : State} (h : s.block.status.busy = false) :
    idxWrite i v s = s.onBlock fun b => b.setIdx i v := by simp [idxWrite, h]

theorem cmdWrite_of_busy {v : Word} {s : State} (h : s.block.status.busy = true) :
    cmdWrite v s = .next (raiseBusy s) := by simp [cmdWrite, h]

theorem cmdWrite_of_illegal {v : Word} {s : State} {e : IllegalWord} (h : s.block.status.busy = false)
    (hd : decode v = .error e) : cmdWrite v s = .next (raiseCommand s) := by
  simp [cmdWrite, h, hd, execIllegal, command]

/-- A legal command word has the effect of its command, also while BUSY = 1. -/
theorem cmdWrite_of_legal {v : Word} {s : State} {i : Instr} (hd : decode v = .ok i) : cmdWrite v s = exec i s := by
  cases hb : s.block.status.busy
  · simp [cmdWrite, hb, hd]
  · rw [cmdWrite_of_busy hb, exec_eq_command, command_of_busy hb]

/-- What a command write can do. -/
theorem cmdWrite_next {v : Word} {s t : State} (h : cmdWrite v s = .next t) :
    (s.block.status.busy = true ∧ t = raiseBusy s) ∨
      (s.block.status.busy = false ∧
        ((∃ e, decode v = .error e ∧ t = raiseCommand s) ∨ ∃ i, decode v = .ok i ∧ exec i s = .next t)) := by
  cases hb : s.block.status.busy
  · refine .inr ⟨rfl, ?_⟩
    cases hd : decode v with
    | ok i => exact .inr ⟨i, rfl, by rwa [cmdWrite_of_legal hd] at h⟩
    | error e => rw [cmdWrite_of_illegal hb hd] at h; exact .inl ⟨e, rfl, (Host.Outcome.next.inj h).symm⟩
  · rw [cmdWrite_of_busy hb] at h; exact .inl ⟨rfl, (Host.Outcome.next.inj h).symm⟩

/-- What a supported write can do. -/
theorem memWrite_next {off : Offset} {v : Word} {s t : State} (h : memWrite off v s = .next t) :
    t = s ∨ (regAt off = .cmd ∧ cmdWrite v s = .next t) ∨ ∃ i, regAt off = .idx i ∧ t = idxWrite i v s := by
  unfold memWrite at h
  split at h
  · exact .inr (.inl ⟨by assumption, h⟩)
  · exact .inr (.inr ⟨_, by assumption, (Host.Outcome.next.inj h).symm⟩)
  all_goals exact .inl (Host.Outcome.next.inj h).symm

/-- A supported write is never refused and never faults. -/
theorem memWrite_answers (off : Offset) (v : Word) (s : State) : ∃ t, memWrite off v s = .next t := by
  unfold memWrite
  split
  case h_1 =>
    cases hd : decode v with
    | ok i =>
      rw [cmdWrite_of_legal hd, exec_eq_command]
      unfold command; split <;> exact ⟨_, rfl⟩
    | error e =>
      unfold cmdWrite; split
      · exact ⟨_, rfl⟩
      · simp only [hd, execIllegal, command]; split <;> exact ⟨_, rfl⟩
  all_goals exact ⟨_, rfl⟩

/-- While BUSY = 1 a supported write changes at most BUSY_ERR. -/
theorem memWrite_of_busy {off : Offset} {v : Word} {s : State} (h : s.block.status.busy = true) :
    memWrite off v s = .next s ∨ memWrite off v s = .next (raiseBusy s) := by
  unfold memWrite
  split
  · exact .inr (cmdWrite_of_busy h)
  · exact .inr (by rw [idxWrite_of_busy h])
  all_goals exact .inl rfl

/-! ### Host steps -/

theorem atOffset_of_supported {p : Place} {width : Nat} {off : Offset} {act : Offset → Result}
    (hp : p.resolve = some off) (hs : supported off width = true) : atOffset p width act = act off := by
  simp [atOffset, hp, hs]

/-- A supported read. -/
theorem hostStep_read {p : Place} {width : Nat} {off : Offset} (hp : p.resolve = some off)
    (hs : supported off width = true) (s : State) : hostStep (.read p width) s = .next (hostRead off s) := by
  simp [hostStep, atOffset_of_supported hp hs]

/-- A supported write. -/
theorem hostStep_write {p : Place} {width : Nat} {off : Offset} (hp : p.resolve = some off)
    (hs : supported off width = true) (v : Word) (s : State) :
    hostStep (.write p width v) s = memWrite off v (s.record { dir := .write, off := off, data := v }) := by
  simp [hostStep, atOffset_of_supported hp hs]

/-- A write to CMD is a command write. -/
theorem memWrite_cmd (v : Word) (s : State) : memWrite 0x00#8 v s = cmdWrite v s := by simp [memWrite]

/-- A write to an index register. -/
theorem memWrite_idx {off : Offset} {i : Fin 24} (h : off.toNat = 0x80 + 4 * i.val) (v : Word) (s : State) :
    memWrite off v s = .next (idxWrite i v s) := by simp [memWrite, regAt_of_idx h]

/-- An access that answers a next state was supported. -/
theorem atOffset_next {p : Place} {width : Nat} {act : Offset → Result} {t : State}
    (h : atOffset p width act = .next t) :
    ∃ off, p.resolve = some off ∧ supported off width = true ∧ act off = .next t := by
  unfold atOffset at h
  split at h
  · cases h
  · split at h
    · exact ⟨_, by assumption, by assumption, h⟩
    · cases h

/-- What a host step that answers a next state can be. -/
theorem hostStep_next {x : Input} {s t : State} (h : hostStep x s = .next t) :
    (∃ p off width, x = .read p width ∧ p.resolve = some off ∧ supported off width = true ∧ t = hostRead off s) ∨
      (∃ p off width v, x = .write p width v ∧ p.resolve = some off ∧ supported off width = true ∧
        memWrite off v (s.record { dir := .write, off := off, data := v }) = .next t) ∨
      (∃ fuel, x = .wait (fuel + 1) ∧
        t = { hostRead 0x04#8 s with
          inputs := if s.block.status.busy then .wait fuel :: s.inputs else s.inputs }) ∨
      (x = .reset ∧ t = assertReset s.inputs s) := by
  cases x with
  | read p width =>
    obtain ⟨off, hp, hs, ht⟩ := atOffset_next h
    exact .inl ⟨p, off, width, rfl, hp, hs, (Host.Outcome.next.inj ht).symm⟩
  | write p width v =>
    obtain ⟨off, hp, hs, ht⟩ := atOffset_next h
    exact .inr (.inl ⟨p, off, width, v, rfl, hp, hs, ht⟩)
  | wait fuel =>
    cases fuel with
    | zero => cases h
    | succ fuel =>
      refine .inr (.inr (.inl ⟨fuel, rfl, ?_⟩))
      simp only [hostStep, pollStatus, Reg.offset, memRead_status, status_word_busy] at h
      cases hb : s.block.status.busy <;> simp [hb] at h <;> rw [← h]
      · simp [State.ext_iff]
      · rfl
  | reset => exact .inr (.inr (.inr ⟨rfl, (Host.Outcome.next.inj h).symm⟩))

/-- While BUSY = 1 an access or a poll of WAIT changes at most BUSY_ERR of the block, and leaves the latency. -/
theorem hostStep_next_of_busy {x : Input} {s t : State} (hx : x ≠ .reset) (hb : s.block.status.busy = true)
    (h : hostStep x s = .next t) :
    t.delay = s.delay ∧
      (t.block = s.block ∨ t.block = { s.block with status := s.block.status.raiseBusy }) := by
  rcases hostStep_next h with ⟨_, off, _, _, _, _, rfl⟩ | ⟨_, off, _, v, _, _, _, hw⟩ | ⟨_, _, rfl⟩ | ⟨rfl, _⟩
  · exact ⟨hostRead_delay .., .inl (hostRead_block ..)⟩
  · rcases memWrite_of_busy (off := off) (v := v) (s := s.record ⟨.write, off, v⟩) hb with e | e <;> rw [e] at hw <;>
      cases hw
    · exact ⟨rfl, .inl rfl⟩
    · exact ⟨rfl, .inr rfl⟩
  · exact ⟨hostRead_delay .., .inl (hostRead_block ..)⟩
  · exact absurd rfl hx

end Sys2Proof.Machine
end

