-- ==== Sys2Proof/Laws/Pack.lean ====
section
/-! SUPPORT. Laws/Pack.lean: the concatenation of the indices in arithmetic, and the last index split off it. -/

namespace Sys2Proof.Machine

@[simp] theorem concatValue_nil : concatValue [] = 0 := rfl

/-- The last index of a concatenation stands in the low 11 bits. -/
theorem concatValue_append_singleton (l : List Index) (x : Index) :
    concatValue (l ++ [x]) = concatValue l * 2048 + x.toNat := by
  simp [concatValue, List.foldl_append]

/-- A concatenation of n indices is below 2^(11 n). -/
theorem concatValue_lt (l : List Index) : concatValue l < 2 ^ (11 * l.length) := by
  induction l using List.reverseRecOn with
  | nil => simp
  | append_singleton l x ih =>
    have hx := x.isLt
    rw [concatValue_append_singleton, List.length_append, List.length_singleton, Nat.mul_add, Nat.pow_add]
    have : (2 : Nat) ^ (11 * 1) = 2048 := by norm_num
    rw [this]
    omega

set_option exponentiation.threshold 264 in
/-- No bit of the concatenation is lost in the 264-bit string. -/
theorem bitString_toNat (idx : Vector Index 24) : (bitString idx).toNat = concatValue idx.toList := by
  have h := concatValue_lt idx.toList
  rw [Vector.length_toList] at h
  simp only [bitString, BitVec.toNat_ofNat]
  exact Nat.mod_eq_of_lt h

/-- Replacing the last index keeps the first 23. -/
theorem withLast_toList (idx : Vector Index 24) (x : Index) :
    (withLast idx x).toList = idx.toList.take 23 ++ [x] := by
  have hl : idx.toList.length = 24 := Vector.length_toList
  apply List.ext_getElem
  · simp [hl]
  · intro n h1 h2
    have hn : n < 24 := by simpa using h1
    simp only [withLast, Vector.toList_set]
    rw [List.getElem_set]
    by_cases h : n = 23
    · subst h; simp [hl]
    · rw [if_neg (Ne.symm h), List.getElem_append_left (by simp [hl]; omega)]
      simp

/-- The string of the indices with the last one replaced: the first 23 in the high bits, the last one in the low 11. -/
theorem bitString_withLast (idx : Vector Index 24) (x : Index) :
    (bitString (withLast idx x)).toNat = concatValue (idx.toList.take 23) * 2048 + x.toNat := by
  rw [bitString_toNat, withLast_toList, concatValue_append_singleton]

@[simp] theorem lastIndex_withLast (idx : Vector Index 24) (x : Index) : lastIndex (withLast idx x) = x := by
  simp [lastIndex, withLast]

@[simp] theorem withLast_withLast (idx : Vector Index 24) (x y : Index) :
    withLast (withLast idx x) y = withLast idx y := by
  simp [withLast]

@[simp] theorem withLast_lastIndex (idx : Vector Index 24) : withLast idx (lastIndex idx) = idx := by
  simp [lastIndex, withLast]

/-- Replacing the last index leaves the others alone. -/
theorem withLast_getElem_of_lt (idx : Vector Index 24) (x : Index) {i : Nat} (h : i < 23) :
    (withLast idx x)[i] = idx[i] := by
  simp only [withLast]
  rw [Vector.getElem_set_ne]
  omega

end Sys2Proof.Machine
end

