-- ==== Sys2Proof/Laws/PerInstr.lean ====
section
/-! SUPPORT. Laws/PerInstr.lean: the family of statements made for each command (LAWS.json). -/

/-- The command word of a command is legal, and its opcode field is the command's opcode (R70, R74). -/
def Sys2Proof.Laws.CommandWordLegal.Statement (i : Sys2Proof.Instr) : Prop :=
  i.wf = true ∧ Sys2Proof.CommandWord.wf (Sys2Proof.encode i) = true ∧
    Sys2Proof.CommandWord.op (Sys2Proof.encode i) = Sys2Proof.opcode i

theorem Sys2Proof.Laws.CommandWordLegal.nop : Sys2Proof.Laws.CommandWordLegal.Statement .nop := by
  unfold Sys2Proof.Laws.CommandWordLegal.Statement; decide

theorem Sys2Proof.Laws.CommandWordLegal.pack : Sys2Proof.Laws.CommandWordLegal.Statement .pack := by
  unfold Sys2Proof.Laws.CommandWordLegal.Statement; decide

theorem Sys2Proof.Laws.CommandWordLegal.verify : Sys2Proof.Laws.CommandWordLegal.Statement .verify := by
  unfold Sys2Proof.Laws.CommandWordLegal.Statement; decide

theorem Sys2Proof.Laws.CommandWordLegal.correct : Sys2Proof.Laws.CommandWordLegal.Statement .correct := by
  unfold Sys2Proof.Laws.CommandWordLegal.Statement; decide

theorem Sys2Proof.Laws.CommandWordLegal.clrerr : Sys2Proof.Laws.CommandWordLegal.Statement .clrerr := by
  unfold Sys2Proof.Laws.CommandWordLegal.Statement; decide
end

