-- ==== Sys2Proof/Laws/Search.lean ====
section
/-! SUPPORT. Laws/Search.lean: the two outcomes of the search, said once. -/

namespace Sys2Proof.Machine

theorem mem_searchOffsets {ofs : Nat} : ofs ∈ searchOffsets ↔ 1 ≤ ofs ∧ ofs ≤ 2047 := by
  unfold searchOffsets
  rw [List.mem_range'_1]
  omega

/-- The search with its first success known. -/
theorem search_of_firstSuccess {idx : Vector Index 24} {ofs : Nat} (h : firstSuccess idx = some ofs) :
    search idx = { found := true, kd := BitVec.ofNat 11 ofs, last := candidate (lastIndex idx) ofs } := by
  simp [search, h]

/-- The search with no success. -/
theorem search_of_none {idx : Vector Index 24} (h : firstSuccess idx = none) :
    search idx = { found := false, kd := 0#11, last := lastIndex idx } := by
  simp [search, h]

/-- The first success is a valid offset of the range. -/
theorem firstSuccess_some {idx : Vector Index 24} {ofs : Nat} (h : firstSuccess idx = some ofs) :
    1 ≤ ofs ∧ ofs ≤ 2047 ∧ candidateValid idx ofs = true :=
  ⟨(mem_searchOffsets.mp (List.mem_of_find?_eq_some h)).1, (mem_searchOffsets.mp (List.mem_of_find?_eq_some h)).2,
    List.find?_some h⟩

/-- With no success every offset of the range fails. -/
theorem firstSuccess_none {idx : Vector Index 24} (h : firstSuccess idx = none) {ofs : Nat} (h1 : 1 ≤ ofs)
    (h2 : ofs ≤ 2047) : candidateValid idx ofs = false := by
  have := List.find?_eq_none.mp h ofs (mem_searchOffsets.mpr ⟨h1, h2⟩)
  simpa using this

end Sys2Proof.Machine
end

