-- ==== Sys2Proof/Laws/Sha256.lean ====
section
/-! SUPPORT. Laws/Sha256.lean: the lengths of the lists of the hash, and one step of its schedule. -/

namespace Sys2Proof.Machine

@[simp] theorem roundConstants_length : roundConstants.length = 64 := rfl

@[simp] theorem message_length (ent : Vector Word 8) : (message ent).length = 16 := by simp [message]

@[simp] theorem extendSchedule_length (n : Nat) (w : List Word) : (extendSchedule n w).length = w.length + n := by
  induction n generalizing w with
  | zero => rfl
  | succ n ih => simp [extendSchedule, ih]; omega

/-- Extending a schedule keeps the words it already has. -/
theorem extendSchedule_getD_of_lt (n : Nat) (w : List Word) {t : Nat} (h : t < w.length) :
    (extendSchedule n w).getD t 0 = w.getD t 0 := by
  induction n generalizing w with
  | zero => rfl
  | succ n ih =>
    rw [extendSchedule, ih _ (by simp; omega), List.getD_append _ _ _ _ h]

end Sys2Proof.Machine
end

