-- ==== Sys2Proof/Laws/Step.lean ====
section
/-! SUPPORT. Laws/Step.lean: what a step can do, said once, and what it does in each of the four cases. -/

namespace Sys2Proof.Machine

theorem step_of_reset {s : State} {rest : List Input} (h : s.inputs = .reset :: rest) :
    step s = .next (assertReset rest s) := by simp [step, nextMove, h, perform]

theorem State.Issues.nextMove_eq {s : State} {x : Input} {rest : List Input} (h : s.Issues x rest) :
    nextMove s = .host x rest := by
  obtain ⟨_, hi, hr, ht⟩ := h
  unfold nextMove
  rw [hi]
  cases x with
  | reset => exact absurd rfl hr
  | _ => rcases ht with ht | ht <;> cases hs : s.block.seq <;> simp_all

/-- A step at the host's access is that host step. -/
theorem State.Issues.step_eq {s : State} {x : Input} {rest : List Input} (h : s.Issues x rest) :
    step s = hostStep x (s.takeInput rest) := by
  simp [step, h.nextMove_eq, perform, h.reset_done]

theorem State.Completes.nextMove_eq {s : State} {op : RunOp} (h : s.Completes op) : nextMove s = .complete op := by
  obtain ⟨_, hr, ht, hn⟩ := h
  unfold nextMove
  cases hi : s.inputs with
  | nil => simp [hr]
  | cons x rest =>
    have hd : s.delay = 0 := by simpa [hi] using ht
    cases x with
    | reset => simp [hi] at hn
    | _ => simp [hr, hd]

/-- A step at a completion is the completion step. -/
theorem State.Completes.step_eq {s : State} {op : RunOp} (h : s.Completes op) :
    step s = .next (completionStep op s) := by
  simp [step, h.nextMove_eq, perform, h.reset_done]

/-- What a step that answers a next state can be: reset, completion, a host step, or waiting. -/
theorem step_next {s t : State} (h : step s = .next t) :
    (∃ rest, s.inputs = .reset :: rest ∧ t = assertReset rest s) ∨
      (∃ op, s.Completes op ∧ t = completionStep op s) ∨
      (∃ x rest, s.Issues x rest ∧ hostStep x (s.takeInput rest) = .next t) ∨
      (s.inputs = [] ∧ s.block.seq = .idle ∧ t = s) := by
  unfold step at h
  cases hd : s.resetDone
  · cases hm : nextMove s with
    | reset rest =>
      rw [hm] at h
      refine .inl ⟨rest, ?_, (Host.Outcome.next.inj h).symm⟩
      unfold nextMove at hm
      split at hm
      · cases hm; assumption
      · split at hm <;> cases hm
      · split at hm
        · cases hm
        · split at hm <;> cases hm
    | complete op => simp [hm, perform, hd] at h
    | host x rest => simp [hm, perform, hd] at h
    | quiet => simp [hm, perform, hd] at h
  · unfold nextMove at h
    split at h
    next rest hi => exact .inl ⟨rest, hi, (Host.Outcome.next.inj h).symm⟩
    next hi =>
      split at h
      next hs => simp [perform, hd] at h; exact .inr (.inr (.inr ⟨hi, hs, h.symm⟩))
      next op hs =>
        simp [perform, hd] at h
        exact .inr (.inl ⟨op, ⟨hd, hs, .inl hi, by simp [hi]⟩, h.symm⟩)
    next x rest hx hi =>
      have hr : x ≠ .reset := hx
      split at h
      next hs =>
        simp [perform, hd] at h
        exact .inr (.inr (.inl ⟨x, rest, ⟨hd, hi, hr, .inl hs⟩, h⟩))
      next op hs =>
        split at h
        next hz =>
          simp [perform, hd] at h
          exact .inr (.inl ⟨op, ⟨hd, hs, .inr hz, by simp [hi, hr]⟩, h.symm⟩)
        next hz =>
          simp [perform, hd] at h
          exact .inr (.inr (.inl ⟨x, rest, ⟨hd, hi, hr, .inr hz⟩, h⟩))

/-- One more step of a run, when the step answers a next state. -/
theorem run_succ {n : Nat} {s t : State} (h : step s = .next t) :
    Sys2Proof.core.run (n + 1) s = Sys2Proof.core.run n t := by
  simp [Host.Core.run, Sys2Proof.core, h]

/-- A run ends at a fault. -/
theorem run_fault {n : Nat} {s : State} {r : Fault} (h : step s = .fault r) :
    Sys2Proof.core.run (n + 1) s = .fault r := by
  simp [Host.Core.run, Sys2Proof.core, h]

/-- What one step can do to the block, with the condition of each change: the whole-machine rules follow from this list. -/
inductive BlockStep (s : State) : Block → Prop where
  | same : BlockStep s s.block
  | reset (rest : List Input) : s.inputs = .reset :: rest → BlockStep s Block.reset
  | complete (op : RunOp) : s.Completes op → BlockStep s (s.block.complete op)
  | busyErr : s.block.status.busy = true → BlockStep s { s.block with status := s.block.status.raiseBusy }
  | cmdErr : s.block.status.busy = false → BlockStep s { s.block with status := s.block.status.raiseCommand }
  | clrerr (p : Place) (v : Word) (rest : List Input) : s.block.status.busy = false → s.inputs = .write p 4 v :: rest →
      p.resolve = some 0x00#8 → decode v = .ok .clrerr → BlockStep s { s.block with status := s.block.status.clearErrors }
  | accept (op : RunOp) (p : Place) (v : Word) (rest : List Input) : s.block.status.busy = false →
      s.inputs = .write p 4 v :: rest → p.resolve = some 0x00#8 →
      decode v = .ok (match op with | .pack => .pack | .verify => .verify | .correct => .correct) →
      BlockStep s (s.block.accept op)
  | setIdx (i : Fin 24) (p : Place) (v : Word) (off : Offset) (rest : List Input) : s.block.status.busy = false →
      s.inputs = .write p 4 v :: rest → p.resolve = some off → off.toNat = 0x80 + 4 * i.val →
      BlockStep s (s.block.setIdx i v)

/-- Every step that answers a next state changes the block in one of the listed ways. -/
theorem step_blockStep {s t : State} (h : step s = .next t) : BlockStep s t.block := by
  rcases step_next h with ⟨rest, hi, rfl⟩ | ⟨op, hc, rfl⟩ | ⟨x, rest, hi, hx⟩ | ⟨_, _, rfl⟩
  · exact .reset rest hi
  · exact .complete op hc
  · rcases hostStep_next hx with ⟨p, off, w, rfl, hp, hs, rfl⟩ | ⟨p, off, w, v, rfl, hp, hs, hw⟩ | ⟨f, rfl, rfl⟩ |
      ⟨rfl, rfl⟩
    · rw [hostRead_block]; exact .same
    · obtain ⟨rfl, ha⟩ := supported_iff.mp hs
      rcases memWrite_next hw with rfl | ⟨hr, hcw⟩ | ⟨i, hr, rfl⟩
      · exact .same
      · obtain rfl := offset_of_regAt_cmd hr
        rcases cmdWrite_next hcw with ⟨hb, rfl⟩ | ⟨hb, ⟨e, hd, rfl⟩ | ⟨i, hd, he⟩⟩
        · exact .busyErr hb
        · exact .cmdErr hb
        · rcases exec_next he with ⟨hb, rfl⟩ | ⟨_, ⟨rfl, rfl⟩ | ⟨rfl, rfl⟩ | ⟨rfl, rfl⟩ | ⟨rfl, rfl⟩ | ⟨rfl, rfl⟩⟩
          · exact .busyErr hb
          · exact .same
          · exact .clrerr p v rest hb hi.inputs hp hd
          · exact .accept .pack p v rest hb hi.inputs hp hd
          · exact .accept .verify p v rest hb hi.inputs hp hd
          · exact .accept .correct p v rest hb hi.inputs hp hd
      · cases hb : s.block.status.busy
        · rw [idxWrite_of_not_busy (by simpa using hb)]
          exact .setIdx i p v off rest hb hi.inputs hp (offset_of_regAt_idx ha hr)
        · rw [idxWrite_of_busy (by simpa using hb)]
          exact .busyErr hb
    · exact (hostRead_block 0x04#8 (s.takeInput rest)).symm ▸ .same
    · exact absurd rfl hi.not_reset
  · exact .same

end Sys2Proof.Machine
end

