-- ==== Sys2Proof/Tests/Slice0.lean ====
section
/-! SUPPORT. Tests/Slice0.lean: smoke tests, tests against the spec's own vectors (spec/95_test_vectors.md, each named by its
id there), and a witness for the hypotheses of each statement. -/

namespace Sys2Proof.Tests

open Sys2Proof Sys2Proof.Machine

/-! ### Well-formedness: a term each check refuses -/

theorem test_mbz_check_refuses_bit_four : CommandWord.mbzZero 0x00000010#32 = false := by decide
theorem test_opcode_check_refuses_five : CommandWord.opAssigned 0x00000005#32 = false := by decide
theorem test_access_check_refuses_halfword : Input.access (.read (.offset 0x04#8) 2) = false := by decide
theorem test_access_check_refuses_misaligned : Input.access (.write (.offset 0x06#8) 4 0#32) = false := by decide

/-! ### Decoding: the words written out bit by bit from R70 (31:4 MBZ, 3:0 OP) -/

theorem test_decode_nop : decode 0b00000000000000000000000000000000#32 = .ok .nop := by decide
theorem test_decode_pack : decode 0b00000000000000000000000000000001#32 = .ok .pack := by decide
theorem test_decode_verify : decode 0b00000000000000000000000000000010#32 = .ok .verify := by decide
theorem test_decode_correct : decode 0b00000000000000000000000000000011#32 = .ok .correct := by decide
theorem test_decode_clrerr : decode 0b00000000000000000000000000000100#32 = .ok .clrerr := by decide
theorem test_decode_bit_four_set : decode 0x00000013#32 = .error .mbzNonzero := by decide
theorem test_decodeTableWord_correct : decodeTableWord 32 3 = some .correct := by decide
theorem test_encodings_of_R79 :
    issue .verify = .write (.offset 0x00#8) 4 0x00000002#32 ∧ writeReg (.idx 23) 102#32 = .write (.offset 0xDC#8) 4 0x66#32 ∧
      readReg (.digest 0) = .read (.offset 0x20#8) 4 := by decide

/-! ### Small states -/

/-- An idle block, reset, with the host's inputs. -/
def idle (inputs : List Input) : State := { State.reset with inputs := inputs }

/-- A block that runs `op`, with `delay` host steps to go. -/
def running (op : RunOp) (delay : Nat) (inputs : List Input) : State :=
  { State.reset with
    block := { Block.reset with status := Status.reset.accept, seq := .run op }
    inputs := inputs
    delay := delay }

/-- 24 indices: the first 23 equal, then the last. -/
def indices (x last : Index) : Vector Index 24 := withLast (Vector.replicate 24 x) last

/-- A block that runs `op` on the indices and completes next. -/
def completing (op : RunOp) (idx : Vector Index 24) : State :=
  { running op 0 [] with block := { (running op 0 []).block with idx := idx } }

/-- STATUS from its 7-bit value. -/
def statusOf (n : Nat) : Status :=
  ⟨n.testBit 0, n.testBit 1, n.testBit 2, n.testBit 3, n.testBit 4, n.testBit 5, n.testBit 6⟩

/-- The same state with another STATUS value. -/
def withStatus (n : Nat) (s : State) : State := { s with block := { s.block with status := statusOf n } }

/-- The state a step answers, or reset. -/
def answer : Result → State
  | .next s => s
  | .fault _ => State.reset
  | .refused _ => State.reset

/-- Whether a step answers a next state. -/
def isNext : Result → Bool
  | .next _ => true
  | .fault _ => false
  | .refused _ => false

/-- STATUS after one step, if the step answers a next state. -/
def statusAfter (s : State) : Option Nat :=
  match step s with
  | .next t => some t.block.status.word.toNat
  | .fault _ => none
  | .refused _ => none

/-- The value the host reads in one step, if the step answers a next state. -/
def readIn (s : State) : Option Word :=
  match step s with
  | .next t => t.trace.head?.map Access.data
  | .fault _ => none
  | .refused _ => none

/-- The refusal of a step. -/
def refusal : Result → Option Refusal
  | .next _ => none
  | .fault _ => none
  | .refused r => some r

/-! ### Host access, control commands and errors (section 6 of the vectors) -/

theorem test_CT1_nop : statusAfter (withStatus 0x06 (idle [issue .nop])) = some 0x06 := by decide
theorem test_CT2_clrerr : statusAfter (withStatus 0x62 (idle [issue .clrerr])) = some 0x02 := by decide
theorem test_CT3_CT4_reserved_opcodes :
    statusAfter (idle [writeReg .cmd 0x5#32]) = some 0x20 ∧ statusAfter (idle [writeReg .cmd 0xF#32]) = some 0x20 := by decide
theorem test_CT5_CT6_CT7_mbz_set :
    statusAfter (idle [writeReg .cmd 0x10#32]) = some 0x20 ∧ statusAfter (idle [writeReg .cmd 0x13#32]) = some 0x20 ∧
      statusAfter (idle [writeReg .cmd 0x80000002#32]) = some 0x20 := by decide
theorem test_CT8_sticky : statusAfter (withStatus 0x20 (idle [writeReg .cmd 0x6#32])) = some 0x20 := by decide
theorem test_CT9_CT10_CT11_busy :
    statusAfter (running .pack 1 [issue .verify]) = some 0x41 ∧
      statusAfter (running .pack 1 [writeReg .cmd 0x5#32]) = some 0x41 ∧
      statusAfter (running .pack 1 [issue .clrerr]) = some 0x41 := by decide
theorem test_CT12_busy_index_write :
    statusAfter (running .verify 1 [writeReg (.idx 5) 7#32]) = some 0x41 ∧
      (answer (step (running .verify 1 [writeReg (.idx 5) 7#32]))).block.idx[5] = 0#11 := by decide
theorem test_CT13_read_only_while_busy :
    statusAfter (running .pack 1 [writeReg .kd 7#32]) = some 0x01 ∧
      statusAfter (running .pack 1 [.write (.offset 0x14#8) 4 7#32]) = some 0x01 := by decide
theorem test_CT14_status_is_read_only : statusAfter (withStatus 0x06 (idle [writeReg .status 0#32])) = some 0x06 := by decide
theorem test_CT17_CT18_CT19_index_truncation :
    (answer (step (idle [writeReg (.idx 0) 0xFFFFFFFF#32]))).block.idx[0] = 2047#11 ∧
      (answer (step (idle [writeReg (.idx 1) 2048#32]))).block.idx[1] = 0#11 ∧
      (answer (step (idle [writeReg (.idx 2) 0x00000805#32]))).block.idx[2] = 5#11 := by decide
theorem test_CT20_unsupported :
    refusal (step (idle [.read (.offset 0x04#8) 2])) = some .unsupportedAccess ∧
      refusal (step (idle [.read (.offset 0x06#8) 4])) = some .unsupportedAccess := by decide
theorem test_CT22_true_values_while_correct_runs :
    readIn { running .correct 1 [readReg .base] with
      block := { (running .correct 1 []).block with base := 7#11 } } = some 7#32 ∧
      readIn (running .correct 1 [readReg (.idx 0)]) = some 0#32 := by decide
/-- CT-21: a read of DIGEST[0] while VERIFY runs is a draw, whatever its value. -/
theorem test_CT21_draw_while_verify_runs :
    step (running .verify 1 [readReg (.digest 0)]) = .next
      { running .verify 0 [] with draws := 1, trace := [{ dir := .read, off := 0x20#8, data := Config.draw 0 }] } := rfl

/-! ### Reads: each clause of the register map at its boundary offsets, on registers that all differ -/

/-- An idle block whose registers hold distinct values. -/
def marked (inputs : List Input) : State :=
  { idle inputs with
    block :=
      { idx := Vector.ofFn fun i => BitVec.ofNat 11 (100 + i.val)
        status := statusOf 0x06
        kd := 11#11
        base := 12#11
        csumExp := 0x34#8
        csumCalc := 0x12#8
        digest := Vector.ofFn fun k => BitVec.ofNat 32 (200 + k.val)
        entropy := Vector.ofFn fun k => BitVec.ofNat 32 (300 + k.val)
        seq := .idle } }

/-- What a read of the offset returns there. -/
def markedRead (off : Offset) : Option Nat := (readIn (marked [.read (.offset off) 4])).map BitVec.toNat

theorem test_read_control_registers :
    markedRead 0x00#8 = some 0 ∧ markedRead 0x04#8 = some 0x06 ∧ markedRead 0x08#8 = some 11 ∧
      markedRead 0x0C#8 = some 12 ∧ markedRead 0x10#8 = some 0x1234 := by decide
theorem test_read_register_files_at_their_ends :
    markedRead 0x20#8 = some 200 ∧ markedRead 0x3C#8 = some 207 ∧ markedRead 0x40#8 = some 300 ∧
      markedRead 0x5C#8 = some 307 ∧ markedRead 0x80#8 = some 100 ∧ markedRead 0xDC#8 = some 123 := by decide
theorem test_CT16_read_reserved :
    markedRead 0x14#8 = some 0 ∧ markedRead 0x1C#8 = some 0 ∧ markedRead 0x60#8 = some 0 ∧ markedRead 0x7C#8 = some 0 ∧
      markedRead 0xE0#8 = some 0 ∧ markedRead 0xFC#8 = some 0 := by decide

/-! ### Acceptance, completion, reset -/

theorem test_PK12_acceptance_clears :
    (answer (exec .pack (withStatus 0x2E (idle [])))).block.status.word = 0x21#32 ∧
      (answer (exec .pack { withStatus 0x2E (idle []) with
        block := { Block.reset with kd := 102#11, status := statusOf 0x2E } })).block.kd = 0#11 := by decide
theorem test_CORRECT_acceptance_loads_base :
    (answer (exec .correct { idle [] with block := { Block.reset with idx := indices 0#11 9#11 } })).block.base = 9#11 ∧
      (answer (exec .verify { idle [] with block := { Block.reset with idx := indices 0#11 9#11 } })).block.base = 0#11 := by
  decide

/-- PK-8: alternating bits. -/
theorem test_PK8_alternating :
    (completePack { Block.reset with
      idx := Vector.ofFn fun i => if i.val % 2 = 0 then 0x555#11 else 0x2AA#11 }).entropy =
        Vector.replicate 8 0xAAAAAAAA#32 := by decide +kernel
/-- PK-10: an index across two words. -/
theorem test_PK10_straddle :
    entropyWords ((Vector.replicate 24 0#11).set 11 2047#11) =
      #v[0, 0, 0, 0x0000007F, 0xF0000000, 0, 0, 0] := by decide +kernel
theorem test_PACK_completion_keeps_digest :
    (completePack { Block.reset with csumCalc := 0x66#8, digest := Vector.replicate 8 5#32 }).csumCalc = 0x66#8 ∧
      (completePack { Block.reset with digest := Vector.replicate 8 5#32 }).digest[0] = 5#32 ∧
      (answer (step (completing .pack (indices 0#11 0#11)))).block.status.word = 0x02#32 := by decide

/-- SH-1: schedule words W[17], W[23] and W[56] of the zero message. -/
theorem test_SH1_schedule :
    (schedule (message (Vector.replicate 8 0#32))).getD 17 0 = 0x00A00000#32 ∧
      (schedule (message (Vector.replicate 8 0#32))).getD 23 0 = 0x21002010#32 ∧
      (schedule (message (Vector.replicate 8 0#32))).getD 56 0 = 0x67B5509A#32 := by decide +kernel
/-- SH-1: the working variables after rounds 0 and 1. -/
theorem test_SH1_rounds :
    shaRound initialHash (0x428a2f98#32, 0#32) =
        ⟨0xFC08884D, 0x6A09E667, 0xBB67AE85, 0x3C6EF372, 0x98C7E2A2, 0x510E527F, 0x9B05688C, 0x1F83D9AB⟩ ∧
      shaRound (shaRound initialHash (0x428a2f98#32, 0#32)) (0x71374491#32, 0#32) =
        ⟨0x7AD96290, 0xFC08884D, 0x6A09E667, 0xBB67AE85, 0x9DF1B216, 0x98C7E2A2, 0x510E527F, 0x9B05688C⟩ := by
  decide +kernel

/-- VF-2: VERIFY of the 0x7F pattern. -/
theorem test_VF2_verify_valid :
    (completeVerify { Block.reset with
      idx := #v[1019, 2015, 1790, 2039, 1983, 1533, 2031, 1919, 1019, 2015, 1790, 2039, 1983, 1533, 2031, 1919,
        1019, 2015, 1790, 2039, 1983, 1533, 2031, 1815] }).digest =
      #v[0x17A7384B, 0xF1C50A94, 0xB712CE50, 0x7C5CCD58, 0x638CD091, 0x278078C6, 0xE7DC00AE, 0x0AA152FC] := by decide +kernel
/-- VF-6: the first word changed, the checksum fails. -/
theorem test_VF6_verify_invalid :
    (completeVerify { Block.reset with status := Status.reset.accept, idx := (indices 0#11 102#11).set 0 1#11 }).status.word =
      0x02#32 := by decide +kernel
/-- CR-6: the last word one position off. -/
theorem test_CR6_search : search (indices 2047#11 1966#11) = ⟨true, 1#11, 1967#11⟩ := by decide +kernel
theorem test_candidate_wraps : candidate 2040#11 110 = 102#11 ∧ candidate 2047#11 1 = 0#11 := by decide
/-- RS-2: reset while CORRECT runs and its completion is due. -/
theorem test_RS2_reset_abandons :
    statusAfter { completing .correct (indices 5#11 6#11) with inputs := [.reset] } = some 0 ∧
      (answer (step { completing .correct (indices 5#11 6#11) with inputs := [.reset] })).block.idx[0] = 0#11 ∧
      (answer (step { completing .correct (indices 5#11 6#11) with inputs := [.reset] })).block.seq = .idle := by decide
/-- P4: with the completion due the index write comes after it; with a host step to go it comes before it and is dropped. -/
theorem test_P4_both_orders :
    (answer (step (running .verify 1 [writeReg (.idx 23) 102#32]))).block.status.busyErr = true ∧
      (answer (step (running .verify 0 [writeReg (.idx 23) 102#32]))).block.status.done = true ∧
      (answer (step (running .verify 0 [writeReg (.idx 23) 102#32]))).inputs = [writeReg (.idx 23) 102#32] := by decide
theorem test_wait_polls_again_while_busy :
    (answer (step (running .verify 1 [.wait 3]))).inputs = [.wait 2] ∧ (answer (step (idle [.wait 3]))).inputs = [] := by decide

/-! ### The host's own questions: the first step after reset runs the written command -/

theorem test_withFetchWord_runs_each_command :
    (step (State.reset.withFetchWord 32 0)) = .next { State.reset with trace := [⟨.write, 0#8, 0#32⟩] } ∧
      (answer (step (State.reset.withFetchWord 32 1))).block.seq = .run .pack ∧
      (answer (step (State.reset.withFetchWord 32 2))).block.seq = .run .verify ∧
      (answer (step (State.reset.withFetchWord 32 3))).block.seq = .run .correct ∧
      (answer (step (State.reset.withFetchWord 32 4))).inputs = [] := ⟨rfl, rfl, rfl, rfl, rfl⟩

/-! ### Witnesses: concrete states that meet the hypotheses of the statements -/

/-- The host's access comes next on an idle block. -/
theorem issues_idle {x : Input} {rest : List Input} (h : x ≠ .reset) : (idle (x :: rest)).Issues x rest :=
  ⟨rfl, rfl, h, .inl rfl⟩

/-- The host's access comes next on a running block with host steps to go. -/
theorem issues_running {op : RunOp} {x : Input} {rest : List Input} (h : x ≠ .reset) :
    (running op 1 (x :: rest)).Issues x rest := ⟨rfl, rfl, h, .inr Nat.one_ne_zero⟩

/-- The completion comes next. -/
theorem completes_completing (op : RunOp) (idx : Vector Index 24) : (completing op idx).Completes op :=
  ⟨rfl, rfl, .inl rfl, by simp [completing, running]⟩

/-- The completion comes next also when the host has an access left and no host step is to go. -/
theorem completes_running (op : RunOp) (i : Instr) : (running op 0 [issue i]).Completes op :=
  ⟨rfl, rfl, .inr rfl, by simp [running, issue, writeReg]⟩

theorem witness_RegisterMapMatchesItsTable :
    (0x14 ≤ (0x14#8).toNat ∧ (0x14#8).toNat ≤ 0x1C) ∧ (0x60 ≤ (0x7C#8).toNat ∧ (0x7C#8).toNat ≤ 0x7C) ∧
      0xE0 ≤ (0xE0#8).toNat := by decide
theorem witness_ResetInputResetsTheWholeBlock :
    { completing .correct (indices 5#11 6#11) with inputs := [.reset] }.inputs = .reset :: [] ∧
      (running .pack 1 [readReg .status]).block.status.busy = true ∧
      (running .pack 1 [readReg .status]).block.seq = .run .pack ∧
      isNext (step (running .pack 1 [readReg .status])) = true := ⟨rfl, rfl, rfl, by decide⟩
theorem witness_NothingRunsBeforeTheFirstReset :
    { State.reset with resetDone := false, inputs := [issue .pack] }.resetDone = false ∧
      { State.reset with resetDone := false, inputs := [issue .pack] }.inputs.head? ≠ some .reset := by decide
theorem witness_IdleBlockWaitsUnchanged : (idle []).resetDone = true ∧ (idle []).ended := ⟨rfl, rfl, rfl⟩
theorem witness_StepRunsTheDecodedCommand :
    (idle [issue .pack]).Issues (.write (.offset 0x00#8) 4 0x1#32) [] ∧
      (running .verify 1 [issue .pack]).Issues (.write (.offset 0x00#8) 4 0x1#32) [] ∧ decode 0x1#32 = .ok .pack :=
  ⟨issues_idle (by decide), issues_running (by decide), by decide⟩
theorem witness_IllegalWordSetsOnlyCmdErr :
    (idle [writeReg .cmd 0x5#32]).Issues (.write (.offset 0x00#8) 4 0x5#32) [] ∧ (∀ i, decode 0x5#32 ≠ .ok i) ∧
      (idle [writeReg .cmd 0x5#32]).block.status.busy = false :=
  ⟨issues_idle (by decide), fun i => by cases i <;> decide, rfl⟩
theorem witness_BusyWritesAreDropped :
    (running .pack 1 [writeReg .cmd 0x5#32]).Issues (.write (.offset 0x00#8) 4 0x5#32) [] ∧
      (running .pack 1 [writeReg (.idx 23) 1#32]).Issues (.write (.offset 0xDC#8) 4 1#32) [] ∧
      (running .pack 1 [writeReg .kd 1#32]).Issues (.write (.offset 0x08#8) 4 1#32) [] ∧
      (running .pack 1 [writeReg (.idx 23) 1#32]).block.status.busy = true ∧ (0xDC#8).toNat = 0x80 + 4 * (23 : Fin 24) ∧
      (0x08#8 ≠ 0x00#8 ∧ ∀ i : Fin 24, (0x08#8).toNat ≠ 0x80 + 4 * i) ∧ (0xDC#8).toNat % 4 = 0 ∧
      (running .pack 1 [writeReg .kd 1#32]).block.seq = .run .pack ∧
      isNext (step (running .pack 1 [writeReg .kd 1#32])) = true :=
  ⟨issues_running (by decide), issues_running (by decide), issues_running (by decide), rfl, by decide, by decide, by decide,
    rfl, by decide⟩
theorem witness_IndexWriteStoresElevenBits :
    (idle [writeReg (.idx 0) 0xFFFFFFFF#32]).Issues (.write (.offset 0x80#8) 4 0xFFFFFFFF#32) [] ∧
      (0x80#8).toNat = 0x80 + 4 * (0 : Fin 24) ∧ (0xDC#8).toNat = 0x80 + 4 * (23 : Fin 24) ∧
      (idle [writeReg (.idx 0) 0xFFFFFFFF#32]).block.status.busy = false ∧
      (running .pack 1 [writeReg (.idx 23) 1#32]).Issues (.write (.offset 0xDC#8) 4 1#32) [] ∧
      (running .pack 1 [writeReg (.idx 23) 1#32]).block.status.busy = true :=
  ⟨issues_idle (by decide), by decide, by decide, rfl, issues_running (by decide), rfl⟩
theorem witness_ReadOnlyAndReservedOffsets :
    (idle [writeReg .kd 7#32]).Issues (.write (.offset 0x08#8) 4 7#32) [] ∧
      (running .pack 1 [.write (.offset 0xE0#8) 4 7#32]).Issues (.write (.offset 0xE0#8) 4 7#32) [] ∧
      (idle [.read (.offset 0xFC#8) 4]).Issues (.read (.offset 0xFC#8) 4) [] ∧
      (0x08#8).toNat % 4 = 0 ∧ 0x08#8 ≠ 0x00#8 ∧ (0x7C#8).toNat < 0x80 ∧ 0xE0 ≤ (0xE0#8).toNat :=
  ⟨issues_idle (by decide), issues_running (by decide), issues_idle (by decide), by decide, by decide, by decide,
    by decide⟩
theorem witness_CandidatesAreAllOtherIndices : 2048 ≤ (2047#11).toNat + 1 ∧ ¬ 2048 ≤ (0#11).toNat + 2047 := by decide
theorem witness_ReadReturnsTheRegister :
    (marked [readReg (.digest 7)]).Issues (.read (.offset 0x3C#8) 4) [] ∧ (0x3C#8).toNat % 4 = 0 ∧
      (marked [readReg (.digest 7)]).block.status.busy = false ∧ (0x3C#8).toNat = 0x20 + 4 * (7 : Fin 8) ∧
      (0x5C#8).toNat = 0x40 + 4 * (7 : Fin 8) ∧ (0xDC#8).toNat = 0x80 + 4 * (23 : Fin 24) :=
  ⟨⟨rfl, rfl, by decide, .inl rfl⟩, by decide, rfl, by decide, by decide, by decide⟩
theorem witness_ReadsOfResultsWhileBusyAreDraws :
    (running .correct 1 [readReg (.idx 23)]).Issues (.read (.offset 0xDC#8) 4) [] ∧
      (running .verify 1 [readReg (.idx 23)]).Issues (.read (.offset 0xDC#8) 4) [] ∧
      (running .correct 1 [readReg (.idx 23)]).block.status.busy = true ∧
      (running .correct 1 [readReg (.idx 23)]).block.seq = .run .correct ∧
      (running .verify 1 [readReg (.idx 23)]).block.seq ≠ .run .correct ∧ (0xD8#8).toNat = 0x80 + 4 * (22 : Fin 24) :=
  ⟨issues_running (by decide), issues_running (by decide), rfl, rfl, by decide, by decide⟩
theorem witness_EverySupportedAccessIsPermitted :
    (idle [readReg .status]).Issues (readReg .status) [] ∧ (readReg .status).access = true :=
  ⟨issues_idle (by decide), by decide⟩
theorem witness_UnsupportedAccessesAreRefused :
    (idle [.read (.offset 0x04#8) 2]).Issues (.read (.offset 0x04#8) 2) [] ∧
      (idle [.write (.offset 0x06#8) 4 0#32]).Issues (.write (.offset 0x06#8) 4 0#32) [] ∧ (2 ≠ 4 ∨ (0x04#8).toNat % 4 ≠ 0) ∧
      (0x06#8).toNat % 4 ≠ 0 :=
  ⟨issues_idle (by decide), issues_idle (by decide), by decide, by decide⟩
theorem witness_HostAddressesReachTheWindow :
    (idle [.read (.address (Config.sgcBase + (0x04#8).toNat)) 4]).Issues
        (.read (.address (Config.sgcBase + (0x04#8).toNat)) 4) [] ∧
      (idle [.write (.address (Config.sgcBase + (0x00#8).toNat)) 4 1#32]).Issues
        (.write (.address (Config.sgcBase + (0x00#8).toNat)) 4 1#32) [] :=
  ⟨issues_idle (by simp), issues_idle (by simp)⟩
theorem witness_AccessesOutsideTheWindowAreRefused :
    Config.sgcBase + 0xFF < Config.sgcBase + 0x100 ∧
      (idle [.read (.address (Config.sgcBase + 0x100)) 4]).Issues (.read (.address (Config.sgcBase + 0x100)) 4) [] ∧
      (idle [.write (.address (Config.sgcBase + 0x100)) 4 0#32]).Issues
        (.write (.address (Config.sgcBase + 0x100)) 4 0#32) [] :=
  ⟨by omega, issues_idle (by simp), issues_idle (by simp)⟩
theorem witness_ReadsHaveNoSideEffects :
    (running .pack 1 [readReg .status]).Issues (.read (.offset 0x04#8) 4) [] ∧
      (Place.offset 0x04#8).resolve = some 0x04#8 ∧ (0x04#8).toNat % 4 = 0 :=
  ⟨issues_running (by decide), rfl, by decide⟩
theorem witness_commands_idle_and_busy :
    (idle []).block.status.busy = false ∧ (running .pack 1 []).block.status.busy = true := by decide
theorem witness_completions_of_every_command :
    (completing .pack (indices 1#11 2#11)).Completes .pack ∧ (completing .verify (indices 1#11 2#11)).Completes .verify ∧
      (completing .correct (indices 1#11 2#11)).Completes .correct ∧ (running .pack 0 [issue .nop]).Completes .pack :=
  ⟨completes_completing _ _, completes_completing _ _, completes_completing _ _, completes_running _ _⟩
theorem witness_CorrectOnValidIndicesChangesTheLast :
    (completing .correct (indices 0#11 102#11)).Completes .correct ∧
      (check (completing .correct (indices 0#11 102#11)).block.idx).ok = true :=
  ⟨completes_completing _ _, by decide +kernel⟩
theorem witness_PackIsInjective :
    entropyWords (indices 1#11 2#11) = entropyWords (indices 1#11 2#11) ∧
      expectedChecksum (indices 1#11 2#11) = expectedChecksum (indices 1#11 2#11) := ⟨rfl, rfl⟩
theorem witness_LastIndexSplitsIntoEntropyAndChecksum : (0x1FF#11).extractLsb' 8 3 = (0x100#11).extractLsb' 8 3 := by decide
theorem witness_RotateAndShiftMoveEachBit : 0 < 31 ∧ 31 < 32 := by decide
theorem witness_ScheduleFollowsTheRecurrence : (message (Vector.replicate 8 0#32)).length = 16 ∧ 16 ≤ 63 ∧ 63 < 64 := by decide
theorem witness_CompressionRunsTheSixtyFourRounds : (schedule (message (Vector.replicate 8 0#32))).length = 64 := by
  simp [schedule]
theorem witness_EachBlockHasOneValidLastIndex :
    (102#11).toNat / 256 = (0 : Fin 8).val ∧ (2047#11).toNat / 256 = (7 : Fin 8).val := by decide
/-- Both outcomes of the search exist as premises; the failing one is met by no input (R110), and the statement defines it. -/
theorem witness_SearchReturnsTheSmallestOffset : (search (indices 2047#11 1966#11)).found = true := by decide +kernel
theorem witness_ExhaustedIsNeverSet :
    (running .pack 0 []).block.status.exhausted = false ∧
      step (running .pack 0 []) = .next (completionStep .pack (running .pack 0 [])) := ⟨rfl, rfl⟩
theorem witness_reset_block_meets_the_invariant : Block.reset.Inv where
  busy_iff_running := by decide
  done_not_busy := by decide
  csumOk_done := by decide
  found_done := by decide
  exhausted_done := by decide
  not_found_and_exhausted := by decide
  found_iff_kd := by decide
  found_csumOk := by decide
  csumOk_match := by decide
  csumCalc_digest := by decide
  csumOk_digest := by intro h; cases h
  correct_base := by intro h; cases h
  fresh := fun _ _ => ⟨rfl, rfl, rfl, rfl, rfl⟩
theorem witness_EveryStepKeepsTheInvariants :
    (idle [issue .nop]).Inv ∧ isNext (step (idle [issue .nop])) = true :=
  ⟨⟨witness_reset_block_meets_the_invariant, fun _ => rfl⟩, by decide⟩
theorem witness_ErrorBitsAreSticky :
    isNext (step (withStatus 0x60 (idle [issue .clrerr]))) = true ∧
      (withStatus 0x60 (idle [issue .clrerr])).block.status.cmdErr = true ∧
      (answer (step (withStatus 0x60 (idle [issue .clrerr])))).block.status.cmdErr = false ∧
      (withStatus 0x60 (idle [issue .clrerr])).block.status.busyErr = true ∧
      (answer (step (withStatus 0x60 (idle [issue .clrerr])))).block.status.busyErr = false := by decide
theorem witness_IndicesChangeOnlyByHostWriteOrCorrect :
    isNext (step (idle [writeReg (.idx 23) 7#32])) = true ∧
      (answer (step (idle [writeReg (.idx 23) 7#32]))).block.idx[23] ≠ (idle [writeReg (.idx 23) 7#32]).block.idx[23] := by
  decide
theorem witness_BaseChangesOnlyAtCorrectAcceptance :
    isNext (step { marked [issue .correct] with resetDone := true }) = true ∧
      (answer (step (marked [issue .correct]))).block.base ≠ (marked [issue .correct]).block.base := by decide
theorem witness_ResultsChangeOnlyAtCompletion :
    isNext (step (completing .pack (indices 1#11 2#11))) = true ∧
      (∀ rest, (completing .pack (indices 1#11 2#11)).inputs ≠ .reset :: rest) ∧
      (completePack (completing .pack (indices 1#11 2#11)).block).csumExp ≠
        (completing .pack (indices 1#11 2#11)).block.csumExp :=
  ⟨by decide, by simp [completing, running], by decide +kernel⟩
/-- The KD clause: CORRECT accepted with KD nonzero before. -/
theorem witness_ResultsChangeOnlyAtCompletion_kd :
    isNext (step (marked [issue .correct])) = true ∧ (∀ rest, (marked [issue .correct]).inputs ≠ .reset :: rest) ∧
      (answer (step (marked [issue .correct]))).block.kd ≠ (marked [issue .correct]).block.kd ∧
      (marked [issue .correct]).block.status.busy = false :=
  ⟨by decide, by simp [marked, idle, issue, writeReg], by decide, rfl⟩
theorem witness_EveryStepNearsTheCompletion :
    (running .correct 1 [.wait 2]).block.status.busy = true ∧ (running .correct 1 [.wait 2]).block.seq = .run .correct ∧
      (running .correct 1 [.wait 2]).inputs.head? ≠ some .reset ∧ isNext (step (running .correct 1 [.wait 2])) = true ∧
      (running .pack 3 []).inputs.head? ≠ some .reset ∧ isNext (step (running .pack 3 [])) = true := by decide
theorem witness_ResultsDoNotDependOnTheInterleaving :
    (running .verify 1 ([readReg .status] ++ [issue .nop])).resetDone = true ∧
      (running .verify 1 ([readReg .status] ++ [issue .nop])).block.status.busy = true ∧
      (running .verify 1 ([readReg .status] ++ [issue .nop])).block.seq = .run .verify ∧
      (∀ x ∈ [readReg .status], x.access = true) ∧
      (running .verify 1 ([readReg .status] ++ [issue .nop])).inputs = [readReg .status] ++ [issue .nop] ∧
      (running .verify 1 ([readReg .status] ++ [issue .nop])).delay = [readReg .status].length ∧
      [issue .nop].head? ≠ some .reset :=
  ⟨rfl, rfl, rfl, by decide, rfl, rfl, by decide⟩
theorem witness_EveryAcceptedCommandCompletes :
    (running .verify 1 [readReg .status]).resetDone = true ∧ (running .verify 1 [readReg .status]).block.status.busy = true ∧
      (running .verify 1 [readReg .status]).block.seq = .run .verify ∧
      ∀ x ∈ (running .verify 1 [readReg .status]).inputs, x.access = true := by decide
theorem witness_WaitEndsWithTheCommandOrWithoutResult :
    (running .verify 1 [.wait 2]).resetDone = true ∧ (running .verify 1 [.wait 2]).block.status.busy = true ∧
      (running .verify 1 [.wait 2]).block.seq = .run .verify ∧ (running .verify 1 [.wait 2]).inputs = .wait 2 :: [] ∧
      (running .verify 1 [.wait 2]).delay < 2 ∧ 1 ≤ (running .verify 1 [.wait 1]).delay := by decide
theorem witness_LoadIdxWritesAllIndices :
    (idle (loadIdx (Vector.replicate 24 9#32) ++ [])).resetDone = true ∧
      (idle (loadIdx (Vector.replicate 24 9#32) ++ [])).block.seq = .idle ∧
      (idle (loadIdx (Vector.replicate 24 9#32) ++ [])).block.status.busy = false ∧
      (idle (loadIdx (Vector.replicate 24 9#32) ++ [])).inputs = loadIdx (Vector.replicate 24 9#32) ++ [] :=
  ⟨rfl, rfl, rfl, rfl⟩
theorem witness_RunningResultsAreUnobservable :
    (running .verify 1 [readReg .kd]).SameView
        { running .verify 1 [readReg .kd] with block := { (running .verify 1 []).block with kd := 5#11 } } ∧
      (running .verify 1 [readReg .kd]).block.status.busy = true ∧ (running .verify 1 [readReg .kd]).block.seq ≠ .idle ∧
      (running .verify 1 [readReg .kd]).Issues (readReg .kd) [] ∧ (readReg .kd).access = true :=
  ⟨rfl, rfl, by decide, issues_running (by decide), by decide⟩

end Sys2Proof.Tests
end

/-! PROOFS. The two facts about encodings that the statements on the state need: a legal command word is the encoding of its
command (R71, R72), and an index register has one offset (R52). -/

namespace Sys2Proof.Machine

/-- A command word is its MBZ field followed by its OP field (R70). -/
theorem mbz_append_op (w : Word) : CommandWord.mbz w ++ CommandWord.op w = w := by
  ext i hi
  simp only [CommandWord.mbz, CommandWord.op, BitVec.getElem_append, BitVec.getElem_extractLsb']
  split
  · simp [BitVec.getLsbD_eq_getElem hi]
  · rw [Nat.add_sub_cancel' (by omega), BitVec.getLsbD_eq_getElem hi]

/-- An opcode that names a command is the opcode of that command (R72). -/
theorem eq_opcode_of_ofOpcode {op : BitVec 4} {i : Instr} (h : ofOpcode op = .ok i) : op = opcode i := by
  unfold ofOpcode at h
  split_ifs at h with h0 h1 h2 h3 h4
  all_goals cases h; assumption

/-- A word that decodes to a command is that command's word (R71, R72). -/
theorem eq_encode_of_decode {w : Word} {i : Instr} (h : decode w = .ok i) : w = encode i := by
  unfold decode at h
  split at h
  case isTrue => cases h
  case isFalse hmbz =>
    rw [← mbz_append_op w, not_not.mp hmbz, eq_opcode_of_ofOpcode h, encode]

/-- The address arithmetic of R52 for the index registers. -/
theorem eq_idx_offset {off : Offset} {i : Fin 24} (h : off.toNat = 0x80 + 4 * i.val) : off = (Reg.idx i).offset := by
  have := i.isLt
  apply BitVec.eq_of_toNat_eq
  rw [h, Reg.offset, BitVec.toNat_ofNat, Nat.mod_eq_of_lt (by omega)]

end Sys2Proof.Machine

/-! PROOFS. `State.Inv` at reset and across every step: one lemma for each way of `BlockStep` in which the block can change. -/

namespace Sys2Proof.Machine

variable {b : Block}

/-! ### The checksum test and the search -/

/-- R101: Check answers that the checksums agree exactly when they do. -/
theorem check_ok_iff (idx : Vector Index 24) :
    (check idx).ok = true ↔ (check idx).csumCalc = (check idx).csumExp := by
  rw [check_ok, check_csumCalc, check_csumExp, beq_iff_eq, eq_comm]

/-- R35, R106: the search reports KD = 0 exactly when it fails: an offset 1 .. 2047 is nonzero modulo 2048. -/
theorem search_found_iff_kd (idx : Vector Index 24) : (search idx).found = true ↔ (search idx).kd ≠ 0#11 := by
  cases h : firstSuccess idx with
  | none => simp [search_of_none h]
  | some ofs =>
    obtain ⟨hlow, hhigh, _⟩ := firstSuccess_some h
    have hne : BitVec.ofNat 11 ofs ≠ 0#11 := fun h0 => by
      have := congrArg BitVec.toNat h0
      simp only [BitVec.toNat_ofNat] at this
      omega
    simp [search_of_firstSuccess h, hne]

/-- R106, R113: the last index the search finds makes the checksum valid. -/
theorem check_ok_of_search_found {idx : Vector Index 24} (h : (search idx).found = true) :
    (check (withLast idx (search idx).last)).ok = true := by
  cases hf : firstSuccess idx with
  | none => simp [search_of_none hf] at h
  | some ofs =>
    obtain ⟨_, _, hvalid⟩ := firstSuccess_some hf
    rw [search_of_firstSuccess hf]
    exact hvalid

/-! ### The block's invariant -/

theorem Block.reset_inv : Block.reset.Inv := by
  constructor <;> simp [Block.reset, Status.reset, firstByte]

/-- R41 read from the side of BUSY. -/
theorem Block.Inv.seq_idle (h : b.Inv) (hb : b.status.busy = false) : b.seq = .idle := by
  simpa [hb] using h.busy_iff_running

/-- R26, R28: while a command runs, every flag of a completion is 0. -/
theorem Block.Inv.flags_of_running (h : b.Inv) {op : RunOp} (hr : b.seq = .run op) :
    b.status.done = false ∧ b.status.csumOk = false ∧ b.status.found = false ∧ b.status.exhausted = false := by
  have hbusy : b.status.busy = true := h.busy_iff_running.mpr (by simp [hr])
  have hdone : b.status.done = false := by
    by_contra hd
    simp [h.done_not_busy (by simpa using hd)] at hbusy
  refine ⟨hdone, ?_, ?_, ?_⟩ <;> by_contra hf
  · simp [h.csumOk_done (by simpa using hf)] at hdone
  · simp [h.found_done (by simpa using hf)] at hdone
  · simp [h.exhausted_done (by simpa using hf)] at hdone

/-- The invariant says nothing of the two error bits (R31). -/
theorem Block.Inv.errorBits (h : b.Inv) (cmdErr busyErr : Bool) :
    { b with status := { b.status with cmdErr := cmdErr, busyErr := busyErr } : Block }.Inv := by
  cases h
  constructor <;> assumption

/-- R120: an index write while BUSY = 0 keeps the invariant, because no CORRECT runs that BASE could disagree with. -/
theorem Block.Inv.setIdx (h : b.Inv) (hb : b.status.busy = false) (i : Fin 24) (v : Word) : (b.setIdx i v).Inv := by
  have hidle := h.seq_idle hb
  cases h
  constructor
  case correct_base => simp [hidle]
  all_goals assumption

/-- R122: acceptance keeps the invariant. -/
theorem Block.Inv.accept (h : b.Inv) (op : RunOp) : (b.accept op).Inv := by
  constructor
  case csumCalc_digest => exact h.csumCalc_digest
  case correct_base =>
    intro hseq
    cases hseq
    simp
  all_goals simp

/-- R87: the completion of PACK keeps the invariant: CSUM_OK is 0, so the checksums need not agree. -/
theorem Block.Inv.completePack (h : b.Inv) (hr : b.seq = .run .pack) : (completePack b).Inv := by
  obtain ⟨_, hok, hfound, hexh⟩ := h.flags_of_running hr
  constructor
  case csumCalc_digest => exact h.csumCalc_digest
  case found_iff_kd => exact h.found_iff_kd
  all_goals simp [hok, hfound, hexh]

/-- R104: the completion of VERIFY keeps the invariant: CSUM_OK is the outcome of Check, and FOUND is 0. -/
theorem Block.Inv.completeVerify (h : b.Inv) (hr : b.seq = .run .verify) : (completeVerify b).Inv := by
  obtain ⟨_, _, hfound, hexh⟩ := h.flags_of_running hr
  constructor
  case csumOk_match => exact (check_ok_iff b.idx).mp
  case found_iff_kd => exact h.found_iff_kd
  case csumCalc_digest => rfl
  case csumOk_digest => exact fun _ => rfl
  all_goals simp [hfound, hexh]

/-- R111, R113: the completion of CORRECT keeps the invariant, from any block. -/
theorem completeCorrect_inv (b : Block) : (completeCorrect b).Inv := by
  constructor
  case csumOk_match => exact (check_ok_iff _).mp
  case found_iff_kd => exact search_found_iff_kd b.idx
  case found_csumOk => exact check_ok_of_search_found
  case csumCalc_digest => rfl
  case csumOk_digest => exact fun _ => rfl
  all_goals simp

/-- R149: every completion step keeps the invariant. -/
theorem Block.Inv.complete (h : b.Inv) {op : RunOp} (hr : b.seq = .run op) : (b.complete op).Inv := by
  cases op with
  | pack => exact h.completePack hr
  | verify => exact h.completeVerify hr
  | correct => exact completeCorrect_inv b

/-- Every change a step can make to the block keeps the block's invariant. -/
theorem BlockStep.inv {s : State} (hs : BlockStep s b) (h : s.block.Inv) : b.Inv := by
  cases hs with
  | same => exact h
  | reset => exact Block.reset_inv
  | complete op hc => exact h.complete hc.running
  | busyErr => exact h.errorBits _ _
  | cmdErr => exact h.errorBits _ _
  | clrerr => exact h.errorBits _ _
  | accept op => exact h.accept op
  | setIdx i _ v _ _ hb => exact h.setIdx hb i v

/-! ### The latency of an idle block -/

@[simp] theorem idxWrite_seq (i : Fin 24) (v : Word) (s : State) : (idxWrite i v s).block.seq = s.block.seq := by
  unfold idxWrite; split <;> rfl

@[simp] theorem idxWrite_delay (i : Fin 24) (v : Word) (s : State) : (idxWrite i v s).delay = s.delay := by
  unfold idxWrite; split <;> rfl

/-- A command write that leaves the block idle found it idle and left the latency alone: only acceptance sets a latency. -/
theorem cmdWrite_delay_of_idle {v : Word} {s t : State} (h : cmdWrite v s = .next t) (hidle : t.block.seq = .idle) :
    s.block.seq = .idle ∧ t.delay = s.delay := by
  rcases cmdWrite_next h with ⟨_, rfl⟩ | ⟨_, ⟨_, _, rfl⟩ | ⟨_, _, he⟩⟩
  · exact ⟨hidle, rfl⟩
  · exact ⟨hidle, rfl⟩
  · rcases exec_next he with ⟨_, rfl⟩ | ⟨_, ⟨_, rfl⟩ | ⟨_, rfl⟩ | ⟨_, rfl⟩ | ⟨_, rfl⟩ | ⟨_, rfl⟩⟩
    · exact ⟨hidle, rfl⟩
    · exact ⟨hidle, rfl⟩
    · exact ⟨hidle, rfl⟩
    all_goals cases hidle

/-- So does every host access and poll of WAIT: only a completion or a reset ends a command. -/
theorem hostStep_delay_of_idle {x : Input} {s t : State} (hx : x ≠ .reset) (h : hostStep x s = .next t)
    (hidle : t.block.seq = .idle) : s.block.seq = .idle ∧ t.delay = s.delay := by
  rcases hostStep_next h with ⟨_, off, _, _, _, _, rfl⟩ | ⟨_, off, _, v, _, _, _, hw⟩ | ⟨_, _, rfl⟩ | ⟨rfl, _⟩
  · simpa using hidle
  · rcases memWrite_next hw with rfl | ⟨_, hc⟩ | ⟨i, _, rfl⟩
    · exact ⟨hidle, rfl⟩
    · exact cmdWrite_delay_of_idle (s := s.record ⟨.write, off, v⟩) hc hidle
    · simpa using hidle
  · simpa using hidle
  · exact absurd rfl hx

/-- No step leaves a latency pending on an idle block. -/
theorem step_idle_delay {s t : State} (h : s.Inv) (hst : step s = .next t) (hidle : t.block.seq = .idle) :
    t.delay = 0 := by
  rcases step_next hst with ⟨_, _, rfl⟩ | ⟨_, _, rfl⟩ | ⟨_, _, hi, hx⟩ | ⟨_, hs, rfl⟩
  · rfl
  · rfl
  · obtain ⟨hs, hd⟩ := hostStep_delay_of_idle hi.not_reset hx hidle
    rw [hd, State.takeInput_delay, h.idle_delay hs]
  · exact h.idle_delay hs

/-- Settles O48: the block's invariant by the ways in which a step can change the block, the latency by the kind of step. -/
theorem everyStepKeepsTheInvariants : Obligations.EveryStepKeepsTheInvariants := by
  intro s t h hst
  exact ⟨(step_blockStep hst).inv h.block, step_idle_delay h hst⟩

/-- Settles O47, by the block's invariant at its reset values. -/
theorem resetStateMeetsTheInvariants : Obligations.ResetStateMeetsTheInvariants :=
  ⟨Block.reset_inv, fun _ => rfl⟩

end Sys2Proof.Machine

/-! PROOFS. R41, R151: hiding the result registers commutes with every supported access while a command runs. Two states with
one view have one hidden state, so their steps have one hidden successor. -/

namespace Sys2Proof.Machine

/-- The state as the host can observe it while a command runs; `State.SameView` is equality of these. -/
def State.hideResults (s : State) : State := { s with block := s.block.hideResults }

theorem State.sameView_iff {s t : State} : s.SameView t ↔ s.hideResults = t.hideResults := Iff.rfl

variable {s : State}

@[simp] theorem State.hideResults_block (s : State) : s.hideResults.block = s.block.hideResults := rfl
@[simp] theorem State.hideResults_trace (s : State) : s.hideResults.trace = s.trace := rfl

/-! ### Hiding and the operations on the state -/

theorem State.hideResults_record (s : State) (a : Access) : (s.record a).hideResults = s.hideResults.record a := rfl

theorem State.hideResults_takeInput (s : State) (rest : List Input) :
    (s.takeInput rest).hideResults = s.hideResults.takeInput rest := rfl

theorem hideResults_raiseBusy (s : State) : (raiseBusy s).hideResults = raiseBusy s.hideResults := rfl

theorem State.issues_hideResults {x : Input} {rest : List Input} :
    s.hideResults.Issues x rest ↔ s.Issues x rest :=
  ⟨fun ⟨hd, hi, hx, ht⟩ => ⟨hd, hi, hx, ht⟩, fun ⟨hd, hi, hx, ht⟩ => ⟨hd, hi, hx, ht⟩⟩

/-! ### Reads -/

/-- Whether a read is specified is visible: it depends on STATUS and the sequencer alone. -/
theorem readsUnspecified_hideResults (b : Block) (r : Reg) : b.hideResults.readsUnspecified r = b.readsUnspecified r := by
  cases r <;> rfl

/-- Hiding leaves every index but IDX[23], and that one too unless CORRECT runs. -/
theorem Block.hideResults_idx_getElem (b : Block) (i : Fin 24) (h : b.seq = .run .correct → i ≠ 23) :
    b.hideResults.idx[i] = b.idx[i] := by
  by_cases hc : b.seq = .run .correct
  · have hi : i.val < 23 := by
      have := h hc
      omega
    simpa [Block.hideResults, hc] using withLast_getElem_of_lt b.idx 0#11 hi
  · simp [Block.hideResults, hc]

/-- While BUSY = 1 a specified read sees no hidden register. -/
theorem regValue_hideResults {b : Block} (hb : b.status.busy = true) {r : Reg} (hr : b.readsUnspecified r = false) :
    b.hideResults.regValue r = b.regValue r := by
  cases r with
  | cmd | status | base | reserved => rfl
  | kd | csum | digest | entropy => simp [Block.readsUnspecified, hb] at hr
  | idx i =>
    have hi : b.seq = .run .correct → i ≠ 23 := by simpa [Block.readsUnspecified, hb] using hr
    simp only [Block.regValue, b.hideResults_idx_getElem i hi]

/-- While BUSY = 1 a read of the hidden state returns what a read of the state does. -/
theorem memRead_hideResults (hb : s.block.status.busy = true) (off : Offset) :
    memRead off s.hideResults = ((memRead off s).1, (memRead off s).2.hideResults) := by
  have hvis := readsUnspecified_hideResults s.block (regAt off)
  cases hr : s.block.readsUnspecified (regAt off)
  · rw [memRead_of_specified hr, memRead_of_specified (s := s.hideResults) (hvis.trans hr), State.hideResults_block,
      regValue_hideResults hb hr]
  · rw [memRead_of_unspecified hr, memRead_of_unspecified (s := s.hideResults) (hvis.trans hr)]
    rfl

theorem hostRead_hideResults (hb : s.block.status.busy = true) (off : Offset) :
    hostRead off s.hideResults = (hostRead off s).hideResults := by
  unfold hostRead
  rw [memRead_hideResults hb, State.hideResults_record]

/-! ### Writes -/

/-- While BUSY = 1 the offset alone decides whether a supported write is ignored or sets BUSY_ERR (R53, R130). -/
theorem memWrite_busy_uniform (off : Offset) (v : Word) :
    (∀ s : State, s.block.status.busy = true → memWrite off v s = .next s) ∨
      ∀ s : State, s.block.status.busy = true → memWrite off v s = .next (raiseBusy s) := by
  unfold memWrite
  split
  case h_1 => exact .inr fun s hb => cmdWrite_of_busy hb
  case h_2 => exact .inr fun s hb => by rw [idxWrite_of_busy hb]
  all_goals exact .inl fun s _ => rfl

theorem memWrite_hideResults (hb : s.block.status.busy = true) (off : Offset) (v : Word) :
    ∃ t, memWrite off v s = .next t ∧ memWrite off v s.hideResults = .next t.hideResults := by
  rcases memWrite_busy_uniform off v with h | h
  · exact ⟨s, h s hb, h s.hideResults hb⟩
  · exact ⟨raiseBusy s, h s hb, hideResults_raiseBusy s ▸ h s.hideResults hb⟩

/-! ### Steps -/

/-- The two forms of a supported access by offset. -/
theorem Input.access_cases {x : Input} (h : x.access = true) :
    ∃ off width, supported off width = true ∧
      (x = .read (.offset off) width ∨ ∃ v, x = .write (.offset off) width v) := by
  match x, h with
  | .read (.offset off) width, h => exact ⟨off, width, h, .inl rfl⟩
  | .write (.offset off) width v, h => exact ⟨off, width, h, .inr ⟨v, rfl⟩⟩

/-- While BUSY = 1 a supported access of the hidden state leads to the hidden successor. -/
theorem hostStep_hideResults (hb : s.block.status.busy = true) {x : Input} (hx : x.access = true) :
    ∃ t, hostStep x s = .next t ∧ hostStep x s.hideResults = .next t.hideResults := by
  obtain ⟨off, width, hs, rfl | ⟨v, rfl⟩⟩ := Input.access_cases hx
  · rw [hostStep_read rfl hs, hostStep_read rfl hs, hostRead_hideResults hb]
    exact ⟨hostRead off s, rfl, rfl⟩
  · rw [hostStep_write rfl hs, hostStep_write rfl hs, ← State.hideResults_record]
    exact memWrite_hideResults (s := s.record ⟨.write, off, v⟩) hb off v

theorem step_hideResults {x : Input} {rest : List Input} (hi : s.Issues x rest) (hb : s.block.status.busy = true)
    (hx : x.access = true) : ∃ t, step s = .next t ∧ step s.hideResults = .next t.hideResults := by
  rw [hi.step_eq, (State.issues_hideResults.mpr hi).step_eq, ← State.hideResults_takeInput]
  exact hostStep_hideResults (s := s.takeInput rest) hb hx

/-- Settles O58: both steps are the hidden step of the common view. -/
theorem runningResultsAreUnobservable : Obligations.RunningResultsAreUnobservable := by
  intro s s' x rest hview hb _ hi hx
  have hview : s.hideResults = s'.hideResults := State.sameView_iff.mp hview
  have hi' : s'.Issues x rest := State.issues_hideResults.mp (hview ▸ State.issues_hideResults.mpr hi)
  have hb' : s'.block.status.busy = true :=
    (congrArg (fun u : State => u.block.status.busy) hview).symm.trans hb
  obtain ⟨t, ht, hht⟩ := step_hideResults hi hb hx
  obtain ⟨t', ht', hht'⟩ := step_hideResults hi' hb' hx
  rw [hview, hht'] at hht
  have hsame : t.hideResults = t'.hideResults := (Host.Outcome.next.inj hht).symm
  have htrace : t.trace = t'.trace := by rw [← t.hideResults_trace, hsame, t'.hideResults_trace]
  exact ⟨t, t', ht, ht', htrace, State.sameView_iff.mpr hsame⟩

end Sys2Proof.Machine

/-! PROOFS. Which step can change which register: each rule read off the list of `BlockStep`. -/

namespace Sys2Proof.Machine

variable {s : State} {b : Block}

/-! ### The frame of a completion step -/

@[simp] theorem Block.complete_seq (b : Block) (op : RunOp) : (b.complete op).seq = .idle := by cases op <;> rfl
@[simp] theorem Block.complete_base (b : Block) (op : RunOp) : (b.complete op).base = b.base := by cases op <;> rfl
@[simp] theorem Block.complete_cmdErr (b : Block) (op : RunOp) : (b.complete op).status.cmdErr = b.status.cmdErr := by
  cases op <;> rfl
@[simp] theorem Block.complete_busyErr (b : Block) (op : RunOp) : (b.complete op).status.busyErr = b.status.busyErr := by
  cases op <;> rfl

/-- R111: a completion changes an index only if it is CORRECT's and the index is IDX[23]. -/
theorem Block.complete_idx_ne {op : RunOp} {i : Fin 24} (h : (b.complete op).idx[i] ≠ b.idx[i]) :
    op = .correct ∧ i.val = 23 := by
  cases op with
  | pack => exact absurd rfl h
  | verify => exact absurd rfl h
  | correct =>
    refine ⟨rfl, ?_⟩
    by_contra hi
    exact h (withLast_getElem_of_lt b.idx _ (by omega))

/-- R88: PACK leaves DIGEST and CSUM_CALC. -/
theorem Block.complete_digest_ne {op : RunOp}
    (h : (b.complete op).digest ≠ b.digest ∨ (b.complete op).csumCalc ≠ b.csumCalc) : op = .verify ∨ op = .correct := by
  cases op with
  | pack => exact absurd h (by simp [Block.complete])
  | verify => exact .inl rfl
  | correct => exact .inr rfl

/-- R35: only CORRECT's completion writes KD. -/
theorem Block.complete_kd_ne {op : RunOp} (h : (b.complete op).kd ≠ b.kd) : op = .correct := by
  cases op with
  | pack => exact absurd rfl h
  | verify => exact absurd rfl h
  | correct => rfl

/-! ### The error bits -/

/-- R31, R134: of the ways a step can change the block, only reset and CLRERR clear an error bit. -/
theorem BlockStep.errorBit_cleared (h : BlockStep s b)
    (hclear : s.block.status.cmdErr = true ∧ b.status.cmdErr = false ∨
      s.block.status.busyErr = true ∧ b.status.busyErr = false) :
    (∃ rest, s.inputs = .reset :: rest) ∨
      (s.block.status.busy = false ∧ ∃ p rest, s.inputs = .write p 4 0x00000004#32 :: rest ∧ p.resolve = some 0x00#8) := by
  cases h with
  | reset rest hi => exact .inl ⟨rest, hi⟩
  | clrerr p v rest hb hi hp hd =>
    obtain rfl := eq_encode_of_decode hd
    exact .inr ⟨hb, p, rest, hi, hp⟩
  | _ => simp_all -- a bit that was set is still set

/-- Settles O49, on the list of changes a step can make. -/
theorem errorBitsAreSticky : Obligations.ErrorBitsAreSticky :=
  fun _ _ hst hclear => (step_blockStep hst).errorBit_cleared hclear

/-! ### The indices -/

/-- R22, R23: an index changes by reset, by the completion of CORRECT, or by a write to its own offset. -/
theorem BlockStep.idx_changed (h : BlockStep s b) {i : Fin 24} (hne : b.idx[i] ≠ s.block.idx[i]) :
    (∃ rest, s.inputs = .reset :: rest) ∨
      (s.block.status.busy = false ∧
        ∃ p v rest, s.inputs = .write p 4 v :: rest ∧ p.resolve = some (Reg.idx i).offset ∧
          b.idx[i] = v.extractLsb' 0 11) ∨
      (i.val = 23 ∧ s.block.seq = .run .correct ∧ b.seq = .idle) := by
  cases h with
  | reset rest hi => exact .inl ⟨rest, hi⟩
  | complete op hc =>
    obtain ⟨rfl, hlast⟩ := Block.complete_idx_ne hne
    exact .inr (.inr ⟨hlast, hc.running, Block.complete_seq _ _⟩)
  | setIdx j p v off rest hb hi hp hoff =>
    obtain rfl : j = i := by
      by_contra hji
      exact hne (Vector.getElem_set_ne j.isLt i.isLt fun h => hji (Fin.ext h))
    obtain rfl := eq_idx_offset hoff
    exact .inr (.inl ⟨hb, p, v, rest, hi, hp, by simp [indexOfData]⟩)
  | _ => exact absurd rfl hne

/-- Settles O50, on the list of changes a step can make. -/
theorem indicesChangeOnlyByHostWriteOrCorrect : Obligations.IndicesChangeOnlyByHostWriteOrCorrect :=
  fun _ _ _ hst hne => (step_blockStep hst).idx_changed hne

/-! ### BASE -/

/-- R36: BASE changes by reset or by the acceptance of CORRECT. -/
theorem BlockStep.base_changed (h : BlockStep s b) (hne : b.base ≠ s.block.base) :
    (∃ rest, s.inputs = .reset :: rest) ∨
      (s.block.status.busy = false ∧ b.base = s.block.idx[23] ∧ b.seq = .run .correct ∧
        ∃ p rest, s.inputs = .write p 4 0x00000003#32 :: rest ∧ p.resolve = some 0x00#8) := by
  cases h with
  | reset rest hi => exact .inl ⟨rest, hi⟩
  | complete op => exact absurd (Block.complete_base _ op) hne
  | accept op p v rest hb hi hp hd =>
    obtain rfl : op = .correct := by
      by_contra hop
      exact hne (if_neg hop)
    obtain rfl := eq_encode_of_decode hd
    exact .inr ⟨hb, rfl, rfl, p, rest, hi, hp⟩
  | _ => exact absurd rfl hne

/-- Settles O51, on the list of changes a step can make. -/
theorem baseChangesOnlyAtCorrectAcceptance : Obligations.BaseChangesOnlyAtCorrectAcceptance :=
  fun _ _ hst hne => (step_blockStep hst).base_changed hne

/-! ### The result registers -/

section
variable (h : BlockStep s b) (hreset : ∀ rest, s.inputs ≠ .reset :: rest)
include h hreset

/-- R46: ENTROPY and CSUM_EXP change only at a completion. -/
theorem BlockStep.entropy_changed (hne : b.entropy ≠ s.block.entropy ∨ b.csumExp ≠ s.block.csumExp) :
    ∃ op, s.Completes op := by
  cases h with
  | reset rest hi => exact absurd hi (hreset rest)
  | complete op hc => exact ⟨op, hc⟩
  | _ => simp at hne

/-- R37, R38: DIGEST and CSUM_CALC change only at the completion of VERIFY or CORRECT. -/
theorem BlockStep.digest_changed (hne : b.digest ≠ s.block.digest ∨ b.csumCalc ≠ s.block.csumCalc) :
    s.Completes .verify ∨ s.Completes .correct := by
  cases h with
  | reset rest hi => exact absurd hi (hreset rest)
  | complete op hc =>
    rcases Block.complete_digest_ne hne with rfl | rfl
    · exact .inl hc
    · exact .inr hc
  | _ => simp at hne

/-- R35: KD changes only at the completion of CORRECT and, to 0, at an acceptance. -/
theorem BlockStep.kd_changed (hne : b.kd ≠ s.block.kd) :
    s.Completes .correct ∨
      (s.block.status.busy = false ∧ b.kd = 0#11 ∧
        ∃ p v rest, s.inputs = .write p 4 v :: rest ∧ p.resolve = some 0x00#8 ∧
          (v = 0x00000001#32 ∧ b.seq = .run .pack ∨ v = 0x00000002#32 ∧ b.seq = .run .verify ∨
            v = 0x00000003#32 ∧ b.seq = .run .correct)) := by
  cases h with
  | reset rest hi => exact absurd hi (hreset rest)
  | complete op hc => exact .inl (Block.complete_kd_ne hne ▸ hc)
  | accept op p v rest hb hi hp hd =>
    refine .inr ⟨hb, rfl, p, v, rest, hi, hp, ?_⟩
    have hv := eq_encode_of_decode hd
    cases op with
    | pack => exact .inl ⟨hv, rfl⟩
    | verify => exact .inr (.inl ⟨hv, rfl⟩)
    | correct => exact .inr (.inr ⟨hv, rfl⟩)
  | _ => exact absurd rfl hne

end

/-- Settles O52, register by register, on the list of changes a step can make. -/
theorem resultsChangeOnlyAtCompletion : Obligations.ResultsChangeOnlyAtCompletion :=
  fun _ _ hst hreset =>
    have h := step_blockStep hst
    ⟨h.entropy_changed hreset, h.digest_changed hreset, h.kd_changed hreset⟩

end Sys2Proof.Machine

/-! PROOFS. The layout of STATUS (R26, R32) and the reset values (R44). -/

namespace Sys2Proof.Machine

/-- R32: only the seven low bits of STATUS have storage. -/
theorem status_word_toNat_lt (st : Status) : st.word.toNat < 2 ^ 7 := by
  obtain ⟨busy, done, csumOk, found, exhausted, cmdErr, busyErr⟩ := st
  revert busy done csumOk found exhausted cmdErr busyErr
  decide

/-- Settles O5: the seven stored bits by their place in the concatenation, the reserved ones by the bound on its value. -/
theorem statusBitsStandAtTheirPositions : Obligations.StatusBitsStandAtTheirPositions := by
  intro st
  have hreserved : ∀ i, 7 ≤ i → st.word.getLsbD i = false := fun i hi =>
    Nat.testBit_lt_two_pow ((status_word_toNat_lt st).trans_le (Nat.pow_le_pow_right (by decide) hi))
  refine ⟨status_word_busy st, ?_, ?_, ?_, ?_, ?_, ?_, hreserved⟩
  all_goals simp only [Status.word, BitVec.getLsbD_append]
  all_goals simp

/-- Settles O6: the reset state is written out, and its vectors are constant. -/
theorem resetStateHoldsTheResetValues : Obligations.ResetStateHoldsTheResetValues := by
  refine ⟨fun i => ?_, ?_, rfl, rfl, rfl, rfl, fun k => ?_, fun k => ?_, rfl⟩
  · exact Vector.getElem_replicate i.isLt
  · decide
  · exact Vector.getElem_replicate k.isLt
  · exact Vector.getElem_replicate k.isLt

end Sys2Proof.Machine

/-! PROOFS. The register window: the map (R52) at its offsets, what its offsets answer to reads and writes (R47, R50, R53,
R54, R67), and what accesses can do to a running command (R56, R149). -/

namespace Sys2Proof.Machine

variable {s t : State} {x y : Input} {rest : List Input} {p : Place} {off : Offset} {width : Nat} {v : Word}

/-! ### The register map -/

/-- The registers of a file stand four bytes apart, inside the window's 256 bytes. -/
theorem toNat_fileOffset {base n : Nat} (h : base + 4 * n ≤ 256) (k : Fin n) :
    (BitVec.ofNat 8 (base + 4 * k.val)).toNat = base + 4 * k.val := by
  have := k.isLt
  rw [BitVec.toNat_ofNat, Nat.mod_eq_of_lt (by omega)]

theorem Reg.digest_offset_toNat (k : Fin 8) : (Reg.digest k).offset.toNat = 0x20 + 4 * k.val :=
  toNat_fileOffset (by decide) k

theorem Reg.entropy_offset_toNat (k : Fin 8) : (Reg.entropy k).offset.toNat = 0x40 + 4 * k.val :=
  toNat_fileOffset (by decide) k

theorem Reg.idx_offset_toNat (i : Fin 24) : (Reg.idx i).offset.toNat = 0x80 + 4 * i.val :=
  toNat_fileOffset (by decide) i

/-- R52: the register found at a register's offset is that register. -/
theorem regAt_offset (r : Reg) : regAt r.offset = r := by
  cases r with
  | cmd | status | kd | base | csum | reserved => rfl
  | digest k => exact regAt_of_digest (Reg.digest_offset_toNat k)
  | entropy k => exact regAt_of_entropy (Reg.entropy_offset_toNat k)
  | idx i => exact regAt_of_idx (Reg.idx_offset_toNat i)

/-- R52: the three reserved ranges of the window. -/
theorem regAt_of_reserved (h : (0x14 ≤ off.toNat ∧ off.toNat ≤ 0x1C) ∨ (0x60 ≤ off.toNat ∧ off.toNat ≤ 0x7C) ∨
    0xE0 ≤ off.toNat) : regAt off = .reserved := by
  unfold regAt
  simp only
  rw [if_neg (by omega), if_neg (by omega), if_neg (by omega), if_neg (by omega), if_neg (by omega),
    dif_neg (by omega), dif_neg (by omega), dif_neg (by omega)]

/-- Settles O4, by the offsets of the three register files and the reserved ranges. -/
theorem registerMapMatchesItsTable : Obligations.RegisterMapMatchesItsTable :=
  ⟨regAt_offset, rfl, rfl, rfl, rfl, rfl, Reg.digest_offset_toNat, Reg.entropy_offset_toNat, Reg.idx_offset_toNat,
    fun _ => regAt_of_reserved⟩

/-! ### Supported accesses -/

/-- A supported read that comes next. -/
theorem State.Issues.step_read (hi : s.Issues (.read p width) rest) (hp : p.resolve = some off)
    (hs : supported off width = true) : step s = .next (hostRead off (s.takeInput rest)) := by
  rw [hi.step_eq, hostStep_read hp hs]

/-- A supported write that comes next. -/
theorem State.Issues.step_write (hi : s.Issues (.write p width v) rest) (hp : p.resolve = some off)
    (hs : supported off width = true) :
    step s = memWrite off v ((s.takeInput rest).record { dir := .write, off := off, data := v }) := by
  rw [hi.step_eq, hostStep_write hp hs]

/-- Settles O17: a supported read answers, and so does a supported write of every register. -/
theorem everySupportedAccessIsPermitted : Obligations.EverySupportedAccessIsPermitted := by
  intro s x rest hi hx
  obtain ⟨off, width, hs, rfl | ⟨v, rfl⟩⟩ := Input.access_cases hx
  · exact ⟨_, hi.step_read rfl hs⟩
  · obtain ⟨t, ht⟩ := memWrite_answers off v ((s.takeInput rest).record ⟨.write, off, v⟩)
    exact ⟨t, (hi.step_write rfl hs).trans ht⟩

/-- Settles O53, by the frame of a read. -/
theorem readsHaveNoSideEffects : Obligations.ReadsHaveNoSideEffects := by
  intro s p off rest hi hp ha
  have hstep := hi.step_read hp (supported_iff.mpr ⟨rfl, ha⟩)
  exact ⟨_, _, hstep, hostRead_block .., hostRead_inputs .., hostRead_trace ..⟩

/-! ### CMD, read-only and reserved offsets -/

/-- R53: a write to an aligned offset that is neither CMD's nor an index register's is ignored. -/
theorem memWrite_of_readOnly (ha : off.toNat % 4 = 0) (hcmd : off ≠ 0x00#8)
    (hidx : off.toNat < 0x80 ∨ 0xE0 ≤ off.toNat) (v : Word) (s : State) : memWrite off v s = .next s := by
  obtain ⟨t, ht⟩ := memWrite_answers off v s
  rcases memWrite_next ht with rfl | ⟨hr, _⟩ | ⟨i, hr, _⟩
  · exact ht
  · exact absurd (offset_of_regAt_cmd hr) hcmd
  · have := offset_of_regAt_idx ha hr
    omega

/-- R53: CMD and the reserved offsets read 0, also while BUSY = 1. -/
theorem memRead_of_cmd_or_reserved (h : regAt off = .cmd ∨ regAt off = .reserved) (s : State) :
    memRead off s = (0#32, s) := by
  rcases h with h | h
  all_goals
    rw [memRead_of_specified (by rw [h]; rfl), h]
    rfl

/-- Settles O14: the write is ignored and the read returns 0, and either leaves only its record. -/
theorem readOnlyAndReservedOffsets : Obligations.ReadOnlyAndReservedOffsets := by
  intro s off v rest ha
  have hs : supported off 4 = true := supported_iff.mpr ⟨rfl, ha⟩
  constructor
  · intro hi hcmd hidx
    rw [hi.step_write rfl hs, memWrite_of_readOnly ha hcmd hidx]
    rfl
  · intro hi hoff
    have hr : regAt off = .cmd ∨ regAt off = .reserved := by
      rcases hoff with rfl | hoff
      · exact .inl regAt_cmd
      · exact .inr (regAt_of_reserved hoff)
    rw [hi.step_read rfl hs, hostRead, memRead_of_cmd_or_reserved hr]
    rfl

/-! ### Unsupported accesses -/

/-- R50: an access in the window of another width, or misaligned, is refused before it is performed. -/
theorem atOffset_of_unsupported {act : Offset → Result} (hp : p.resolve = some off)
    (h : width ≠ 4 ∨ off.toNat % 4 ≠ 0) : atOffset p width act = .refused .unsupportedAccess := by
  have hs : ¬ supported off width = true := fun hs => by
    obtain ⟨hw, ha⟩ := supported_iff.mp hs
    exact h.elim (· hw) (· ha)
  simp [atOffset, hp, hs]

/-- Settles O18, for either direction of the access. -/
theorem unsupportedAccessesAreRefused : Obligations.UnsupportedAccessesAreRefused := by
  intro s off width v rest h
  constructor
  · intro hi
    rw [hi.step_eq, hostStep, atOffset_of_unsupported rfl h]
  · intro hi
    rw [hi.step_eq, hostStep, atOffset_of_unsupported rfl h]

/-! ### Host addresses -/

/-- R47: wherever the platform places the window, its offsets are the addresses from `SGC_BASE` on. -/
theorem windowOffset_sgcBase_add (off : Offset) : windowOffset (Config.sgcBase + off.toNat) = some off := by
  have := off.isLt
  rw [windowOffset, if_pos (by omega), Nat.add_sub_cancel_left, BitVec.ofNat_toNat, BitVec.setWidth_eq]

/-- An access sees of its place only the window offset it resolves to. -/
theorem atOffset_congr {q : Place} (h : p.resolve = q.resolve) (width : Nat) (act : Offset → Result) :
    atOffset p width act = atOffset q width act := by
  simp only [atOffset, h]

/-- The next input may be replaced by any other that performs the same host step. -/
theorem State.Issues.step_congr (hi : s.Issues x rest) (hy : y ≠ .reset) (h : ∀ u, hostStep x u = hostStep y u) :
    step s = step { s with inputs := y :: rest } := by
  have hi' : { s with inputs := y :: rest : State }.Issues y rest := ⟨hi.reset_done, rfl, hy, hi.turn⟩
  rw [hi.step_eq, hi'.step_eq, h]
  rfl

/-- Settles O19: the address resolves to the offset, and the access sees nothing else of it. -/
theorem hostAddressesReachTheWindow : Obligations.HostAddressesReachTheWindow := by
  intro s off width v rest
  have hp : (Place.address (Config.sgcBase + off.toNat)).resolve = (Place.offset off).resolve :=
    windowOffset_sgcBase_add off
  constructor
  · exact fun hi => hi.step_congr Input.noConfusion fun u => atOffset_congr hp width _
  · exact fun hi => hi.step_congr Input.noConfusion fun u => atOffset_congr hp width _

/-! ### A running command under accesses -/

/-- The block with its BUSY_ERR bit replaced: all that an access can change while BUSY = 1. -/
def Block.withBusyErr (b : Block) (e : Bool) : Block := { b with status := { b.status with busyErr := e } }

/-- A completion carries BUSY_ERR along and computes nothing from it (R87, R104, R111). -/
theorem Block.complete_withBusyErr (b : Block) (op : RunOp) (e : Bool) :
    (b.withBusyErr e).complete op = (b.complete op).withBusyErr e := by
  cases op <;> rfl

/-- R56, R130: while BUSY = 1 a host step takes one off the latency and changes of the block at most BUSY_ERR, which it does
not clear. -/
theorem State.Issues.withBusyErr (hi : s.Issues x rest) (hb : s.block.status.busy = true)
    (h : hostStep x (s.takeInput rest) = .next t) :
    t.delay = s.delay - 1 ∧
      ∃ e, (s.block.status.busyErr = true → e = true) ∧ t.block = s.block.withBusyErr e := by
  obtain ⟨hdelay, hsame | hraised⟩ := hostStep_next_of_busy (s := s.takeInput rest) hi.not_reset hb h
  · exact ⟨hdelay, s.block.status.busyErr, id, hsame⟩
  · exact ⟨hdelay, true, fun _ => rfl, hraised⟩

/-- Settles O60: a running command's step is its completion, or a host step that leaves all of the block but BUSY_ERR. -/
theorem everyStepNearsTheCompletion : Obligations.EveryStepNearsTheCompletion := by
  intro s t op hb hrun hreset hst
  rcases step_next hst with ⟨rest, hin, _⟩ | ⟨op', hc, rfl⟩ | ⟨x, rest, hi, hx⟩ | ⟨_, hidle, _⟩
  · simp [hin] at hreset
  · obtain rfl : op' = op := Seq.run.inj (hc.running.symm.trans hrun)
    exact .inl ⟨hc, rfl⟩
  · have hlatency : s.delay ≠ 0 := hi.turn.resolve_left (by simp [hrun])
    obtain ⟨hdelay, e, hsticky, hblock⟩ := hi.withBusyErr hb hx
    refine .inr ⟨by simp [hi.inputs], by omega, e, hsticky, hblock, ?_⟩
    rw [hblock]
    exact Block.complete_withBusyErr s.block op e
  · simp [hrun] at hidle

/-- While BUSY = 1 a supported access answers a next state, with the inputs still to come and `resetDone` unchanged. -/
theorem hostStep_access_of_busy (hx : x.access = true) (hb : s.block.status.busy = true) :
    ∃ t, hostStep x s = .next t ∧ t.inputs = s.inputs ∧ t.resetDone = s.resetDone := by
  obtain ⟨off, width, hs, rfl | ⟨v, rfl⟩⟩ := Input.access_cases hx
  · exact ⟨_, hostStep_read rfl hs s, hostRead_inputs .., hostRead_resetDone ..⟩
  · rw [hostStep_write rfl hs]
    rcases memWrite_of_busy (off := off) (v := v) (s := s.record ⟨.write, off, v⟩) hb with h | h
    · exact ⟨_, h, rfl, rfl⟩
    · exact ⟨_, h, rfl, rfl⟩

/-- A supported access is no reset input. -/
theorem Input.ne_reset_of_access (h : x.access = true) : x ≠ .reset := by
  rintro rfl
  cases h

/-- A supported access before a completion step takes one off the latency and leaves all of the block but BUSY_ERR. -/
theorem State.Issues.step_access_of_busy (hi : s.Issues x rest) (hx : x.access = true)
    (hb : s.block.status.busy = true) :
    ∃ t e, step s = .next t ∧ t.resetDone = true ∧ t.inputs = rest ∧ t.delay = s.delay - 1 ∧
      (s.block.status.busyErr = true → e = true) ∧ t.block = s.block.withBusyErr e := by
  obtain ⟨t, hstep, hin, hdone⟩ := hostStep_access_of_busy (s := s.takeInput rest) hx hb
  obtain ⟨hdelay, e, hsticky, hblock⟩ := hi.withBusyErr hb hstep
  exact ⟨t, e, hi.step_eq.trans hstep, hdone.trans hi.reset_done, hin, hdelay, hsticky, hblock⟩

/-- Settles O54, by induction on the accesses: each leaves to the next a block that differs at most in BUSY_ERR. -/
theorem resultsDoNotDependOnTheInterleaving : Obligations.ResultsDoNotDependOnTheInterleaving := by
  intro s op xs rest hdone hb hrun hacc hin hdelay hreset
  induction xs generalizing s with
  | nil =>
    have hc : s.Completes op := ⟨hdone, hrun, .inr hdelay, by rwa [hin]⟩
    refine ⟨completionStep op s, s.block.status.busyErr, run_succ hc.step_eq, hin, id, ?_⟩
    rw [completionStep_block, ← Block.complete_busyErr s.block op]
  | cons x xs ih =>
    have hx : x.access = true := hacc x List.mem_cons_self
    have hi : s.Issues x (xs ++ rest) :=
      ⟨hdone, hin, Input.ne_reset_of_access hx, .inr (by simp [hdelay])⟩
    obtain ⟨t, e, hstep, hdone', hin', hdelay', hsticky, hblock⟩ := hi.step_access_of_busy hx hb
    have hb' : t.block.status.busy = true := by rw [hblock]; exact hb
    have hseq' : t.block.seq = .run op := by rw [hblock]; exact hrun
    obtain ⟨u, e', hrun', hrest, hsticky', hresult⟩ := ih t hdone' hb' hseq'
      (fun y hy => hacc y (List.mem_cons_of_mem x hy)) hin' (by simp [hdelay', hdelay])
    rw [hblock, Block.complete_withBusyErr] at hresult
    refine ⟨u, e', (run_succ hstep).trans hrun', hrest, fun h => hsticky' ?_, hresult⟩
    rw [hblock]
    exact hsticky h

end Sys2Proof.Machine

/-! PROOFS. Command words (R70 to R74): decoding inverts encoding, and which words are illegal, in arithmetic. -/

namespace Sys2Proof.Machine

variable {w : Word} {i : Instr}

/-! ### The round trip -/

/-- R71, R72: the word of a command decodes to that command. -/
@[simp] theorem decode_encode (i : Instr) : decode (encode i) = .ok i := by cases i <;> rfl

theorem decode_eq_ok_iff : decode w = .ok i ↔ w = encode i :=
  ⟨eq_encode_of_decode, fun h => h ▸ decode_encode i⟩

/-- Settles O2, by the two directions of the round trip. -/
theorem decodeAndEncodeAgree : Obligations.DecodeAndEncodeAgree :=
  fun _ _ => decode_eq_ok_iff

/-! ### The two fields of a command word as numbers (R70) -/

theorem mbz_eq_zero_iff : CommandWord.mbz w = 0#28 ↔ w.toNat < 16 := by
  have := w.isLt
  rw [BitVec.toNat_eq, CommandWord.mbz, BitVec.extractLsb'_toNat, BitVec.toNat_ofNat, Nat.shiftRight_eq_div_pow]
  omega

theorem op_toNat (w : Word) : (CommandWord.op w).toNat = w.toNat % 16 := by
  simp [CommandWord.op]

/-! ### Illegal words -/

/-- R72: the reserved opcodes are 0x5 .. 0xF. -/
theorem ofOpcode_eq_opReserved_iff (op : BitVec 4) : ofOpcode op = .error .opReserved ↔ 5 ≤ op.toNat := by
  revert op
  decide

/-- The opcode alone never makes a word illegal for its MBZ field. -/
theorem ofOpcode_ne_mbzNonzero (op : BitVec 4) : ofOpcode op ≠ .error .mbzNonzero := by
  unfold ofOpcode
  split_ifs
  all_goals simp

theorem decode_eq_mbzNonzero_iff : decode w = .error .mbzNonzero ↔ 16 ≤ w.toNat := by
  rw [← not_lt, ← mbz_eq_zero_iff, decode]
  split_ifs with h
  · simp [h]
  · simp [not_not.mp h, ofOpcode_ne_mbzNonzero]

theorem decode_eq_opReserved_iff : decode w = .error .opReserved ↔ 5 ≤ w.toNat ∧ w.toNat ≤ 15 := by
  rw [decode]
  split_ifs with h
  · have hlarge := mbz_eq_zero_iff.not.mp h
    exact ⟨nofun, fun hrange => by omega⟩
  · have hsmall := mbz_eq_zero_iff.mp (not_not.mp h)
    rw [ofOpcode_eq_opReserved_iff, op_toNat]
    omega

/-! ### Legal words -/

/-- R74: a word is legal exactly when it is illegal in neither way. -/
theorem exists_decode_eq_ok_iff : (∃ i, decode w = .ok i) ↔ w.toNat ≤ 4 := by
  have hneither : (∃ i, decode w = .ok i) ↔
      decode w ≠ .error .mbzNonzero ∧ decode w ≠ .error .opReserved := by
    rcases decode w with (_ | _) | i
    all_goals simp
  rw [hneither, ne_eq, ne_eq, decode_eq_mbzNonzero_iff, decode_eq_opReserved_iff]
  omega

theorem commandWord_wf_iff : CommandWord.wf w = true ↔ w.toNat ≤ 4 := by
  rw [CommandWord.wf, Bool.and_eq_true, CommandWord.mbzZero, beq_iff_eq, mbz_eq_zero_iff, CommandWord.opAssigned,
    BitVec.ule, decide_eq_true_eq, op_toNat, BitVec.toNat_ofNat]
  omega

/-- Settles O3, clause by clause. -/
theorem illegalWordsAreExactlyThoseAboveFour : Obligations.IllegalWordsAreExactlyThoseAboveFour :=
  fun _ => ⟨exists_decode_eq_ok_iff, decode_eq_opReserved_iff, decode_eq_mbzNonzero_iff, commandWord_wf_iff⟩

/-- Settles O1: the five legal words are the encodings, and the others lie in the ranges of the two kinds of illegal word. -/
theorem commandWordsDecodeByTheOpcodeMap : Obligations.CommandWordsDecodeByTheOpcodeMap := by
  refine ⟨decode_encode .nop, decode_encode .pack, decode_encode .verify, decode_encode .correct, decode_encode .clrerr,
    ?_, ?_, ?_, ?_, ?_⟩
  · exact decode_eq_opReserved_iff.mpr (by decide)
  · exact decode_eq_opReserved_iff.mpr (by decide)
  · exact decode_eq_mbzNonzero_iff.mpr (by decide)
  · exact decode_eq_mbzNonzero_iff.mpr (by decide)
  · exact decode_eq_mbzNonzero_iff.mpr (by decide)

end Sys2Proof.Machine

/-! PROOFS. The pseudo-instructions (R78): the polls of WAIT against the latency of a running command, and the index writes of
LOADIDX, each a run of host steps taken apart by induction. -/

namespace Sys2Proof.Machine

variable {s : State} {op : RunOp} {fuel : Nat} {rest : List Input}

/-! ### WAIT -/

@[simp] theorem Block.complete_busy (b : Block) (op : RunOp) : (b.complete op).status.busy = false := by cases op <;> rfl

/-- The state after a poll of WAIT that leaves the inputs `rest`: its read of STATUS is recorded. -/
def State.polled (s : State) (rest : List Input) : State :=
  (s.takeInput rest).record { dir := .read, off := 0x04#8, data := s.block.status.word }

/-- R78: a poll puts the loop back with one less fuel if it reads BUSY = 1, and otherwise ends it. -/
theorem State.Issues.step_wait_succ (hi : s.Issues (.wait (fuel + 1)) rest) :
    step s = .next (s.polled (if s.block.status.busy then .wait fuel :: rest else rest)) := by
  rw [hi.step_eq]
  simp only [hostStep, pollStatus, Reg.offset, memRead_status, status_word_busy, State.takeInput_block]
  split
  · rfl
  · rfl

theorem State.Issues.step_wait_of_busy (hi : s.Issues (.wait (fuel + 1)) rest) (hb : s.block.status.busy = true) :
    step s = .next (s.polled (.wait fuel :: rest)) := by
  rw [hi.step_wait_succ, if_pos hb]

theorem State.Issues.step_wait_of_not_busy (hi : s.Issues (.wait (fuel + 1)) rest) (hb : s.block.status.busy = false) :
    step s = .next (s.polled rest) := by
  rw [hi.step_wait_succ, if_neg (by simp [hb])]

/-- R158: with no fuel left the run has no result. -/
theorem State.Issues.step_wait_zero (hi : s.Issues (.wait 0) rest) : step s = .fault .waitOutOfFuel :=
  hi.step_eq

/-- A WAIT that comes first in the inputs is performed next, unless a completion is due. -/
theorem State.issues_wait (hdone : s.resetDone = true) (hin : s.inputs = .wait fuel :: rest)
    (hturn : s.block.seq = .idle ∨ s.delay ≠ 0) : s.Issues (.wait fuel) rest :=
  ⟨hdone, hin, Input.noConfusion, hturn⟩

/-- A WAIT does not keep back a completion that is due. -/
theorem State.completes_before_wait (hdone : s.resetDone = true) (hrun : s.block.seq = .run op)
    (hin : s.inputs = .wait fuel :: rest) (hdelay : s.delay = 0) : s.Completes op :=
  ⟨hdone, hrun, .inr hdelay, by simp [hin]⟩

/-- After a completion that came due before a WAIT, the WAIT is next. -/
theorem State.issues_wait_completionStep (hdone : s.resetDone = true) (hin : s.inputs = .wait fuel :: rest)
    (op : RunOp) : (completionStep op s).Issues (.wait fuel) rest :=
  State.issues_wait hdone hin (.inl (Block.complete_seq s.block op))

/-- R78: a WAIT with more fuel than the latency ends with a read of BUSY = 0, one step after the completion. By induction on
the latency: each poll before the completion takes one off both. -/
theorem run_wait_of_delay_lt (hdone : s.resetDone = true) (hb : s.block.status.busy = true)
    (hrun : s.block.seq = .run op) (hin : s.inputs = .wait fuel :: rest) (hfuel : s.delay < fuel) :
    ∃ t a, Sys2Proof.core.run (s.delay + 2) s = .next t ∧ t.block = s.block.complete op ∧ t.inputs = rest ∧
      t.trace.head? = some a ∧ a.dir = .read ∧ a.off = 0x04#8 ∧ a.data.getLsbD 0 = false := by
  obtain ⟨fuel, rfl⟩ := Nat.exists_eq_succ_of_ne_zero (Nat.ne_zero_of_lt hfuel)
  induction hd : s.delay generalizing s fuel with
  | zero =>
    have hcomplete := (State.completes_before_wait hdone hrun hin hd).step_eq
    have hpoll := (State.issues_wait_completionStep hdone hin op).step_wait_of_not_busy (Block.complete_busy s.block op)
    refine ⟨_, _, (run_succ hcomplete).trans ((run_succ hpoll).trans rfl), rfl, rfl, rfl, rfl, rfl, ?_⟩
    rw [status_word_busy]
    exact Block.complete_busy s.block op
  | succ d ih =>
    have hpoll := (State.issues_wait hdone hin (.inr (by omega))).step_wait_of_busy hb
    obtain ⟨fuel, rfl⟩ := Nat.exists_eq_succ_of_ne_zero (n := fuel) (by omega)
    have hd' : (s.polled (.wait (fuel + 1) :: rest)).delay = d := by simp [State.polled, hd]
    obtain ⟨t, a, hruns, hend⟩ := ih (s := s.polled (.wait (fuel + 1) :: rest)) hdone hb hrun fuel rfl (by omega) hd'
    exact ⟨t, a, (run_succ hpoll).trans hruns, hend⟩

/-- R158: a WAIT with no more fuel than the latency has no result. By induction on the fuel: each poll takes one off both. -/
theorem run_wait_of_le_delay (hdone : s.resetDone = true) (hb : s.block.status.busy = true)
    (hrun : s.block.seq = .run op) (hin : s.inputs = .wait fuel :: rest) (hfuel : fuel ≤ s.delay) :
    ∃ n, Sys2Proof.core.run n s = .fault .waitOutOfFuel := by
  induction fuel generalizing s with
  | zero =>
    by_cases hd : s.delay = 0
    · have hcomplete := (State.completes_before_wait hdone hrun hin hd).step_eq
      have hfault := (State.issues_wait_completionStep hdone hin op).step_wait_zero
      exact ⟨2, (run_succ hcomplete).trans (run_fault hfault)⟩
    · exact ⟨1, run_fault (State.issues_wait hdone hin (.inr hd)).step_wait_zero⟩
  | succ fuel ih =>
    have hpoll := (State.issues_wait hdone hin (.inr (by omega))).step_wait_of_busy hb
    obtain ⟨n, hn⟩ := ih (s := s.polled (.wait fuel :: rest)) hdone hb hrun rfl (Nat.le_sub_one_of_lt hfuel)
    exact ⟨n + 1, (run_succ hpoll).trans hn⟩

/-- Settles O56, by the two races of the fuel against the latency. -/
theorem waitEndsWithTheCommandOrWithoutResult : Obligations.WaitEndsWithTheCommandOrWithoutResult :=
  fun _ _ _ _ hdone hb hrun hin =>
    ⟨run_wait_of_delay_lt hdone hb hrun hin, run_wait_of_le_delay hdone hb hrun hin⟩

/-! ### LOADIDX -/

/-- R120: an index write that comes next on a block with BUSY = 0. -/
theorem State.Issues.step_writeReg_idx {i : Fin 24} {v : Word} (hi : s.Issues (writeReg (.idx i) v) rest)
    (hb : s.block.status.busy = false) :
    ∃ t, step s = .next t ∧ t.resetDone = true ∧ t.inputs = rest ∧ t.block = s.block.setIdx i v := by
  have hoff := Reg.idx_offset_toNat i
  have hs : supported (Reg.idx i).offset 4 = true := supported_iff.mpr ⟨rfl, by omega⟩
  rw [hi.step_write rfl hs, memWrite_idx hoff, idxWrite_of_not_busy (by simpa using hb)]
  exact ⟨_, rfl, hi.reset_done, rfl, rfl⟩

/-- The index registers after one index write. -/
theorem Block.setIdx_idx_getElem (b : Block) (i j : Fin 24) (v : Word) :
    (b.setIdx i v).idx[j] = if j = i then indexOfData v else b.idx[j] := by
  rw [Block.setIdx_idx, Fin.getElem_fin, Vector.getElem_set]
  simp [Fin.ext_iff, eq_comm]

/-- Index writes on an idle block, in any order and with repetitions: each index of the list takes the low 11 bits of its value,
and every other register stays. -/
theorem run_idxWrites (v : Vector Word 24) (is : List (Fin 24)) (hdone : s.resetDone = true)
    (hidle : s.block.seq = .idle) (hb : s.block.status.busy = false)
    (hin : s.inputs = (is.map fun i => writeReg (.idx i) v[i]) ++ rest) :
    ∃ t, Sys2Proof.core.run is.length s = .next t ∧ t.inputs = rest ∧
      (∀ j : Fin 24, t.block.idx[j] = if j ∈ is then indexOfData v[j] else s.block.idx[j]) ∧
      t.block = { s.block with idx := t.block.idx } := by
  induction is generalizing s with
  | nil => exact ⟨s, rfl, hin, fun j => by simp, rfl⟩
  | cons i is ih =>
    have hi : s.Issues (writeReg (.idx i) v[i]) ((is.map fun i => writeReg (.idx i) v[i]) ++ rest) :=
      ⟨hdone, hin, Input.noConfusion, .inl hidle⟩
    obtain ⟨u, hstep, hdone', hin', hblock⟩ := hi.step_writeReg_idx hb
    obtain ⟨t, hruns, hrest, hidx, hframe⟩ := ih hdone' (by rwa [hblock]) (by rwa [hblock]) hin'
    rw [hblock] at hframe
    refine ⟨t, (run_succ hstep).trans hruns, hrest, fun j => ?_, hframe⟩
    rw [hidx j, hblock, Block.setIdx_idx_getElem]
    by_cases hj : j = i
    · simp [hj]
    · simp [hj]

/-- Settles O57: the 24 writes of LOADIDX name every index. -/
theorem loadIdxWritesAllIndices : Obligations.LoadIdxWritesAllIndices := by
  intro s v rest hdone hidle hb hin
  obtain ⟨t, hruns, hrest, hidx, hframe⟩ := run_idxWrites v (List.finRange 24) hdone hidle hb hin
  rw [List.length_finRange] at hruns
  refine ⟨t, hruns, hrest, fun i => ?_, hframe⟩
  rw [hidx i, if_pos (List.mem_finRange i)]
  rfl

end Sys2Proof.Machine

/-! PROOFS. Pack (R80 to R89): each index and each entropy word is a field of the string S, so no bit of the indices is
lost; and the command PACK, whose completion writes those fields. -/

namespace Sys2Proof.Machine

/-! ### The concatenation of the indices -/

/-- What a concatenation adds to the bits it starts from stands below them. -/
theorem concatValue_foldl (l : List Index) (acc : Nat) :
    l.foldl (fun acc x => acc * 2 ^ 11 + x.toNat) acc = acc * 2 ^ (11 * l.length) + concatValue l := by
  induction l using List.reverseRecOn with
  | nil => simp
  | append_singleton l x ih =>
    rw [List.foldl_append, ih, concatValue_append_singleton, List.length_append, List.length_singleton, Nat.mul_add,
      Nat.pow_add]
    simp only [List.foldl_cons, List.foldl_nil]
    ring

/-- The first index of a concatenation stands above the others. -/
theorem concatValue_cons (x : Index) (l : List Index) :
    concatValue (x :: l) = x.toNat * 2 ^ (11 * l.length) + concatValue l := by
  rw [← concatValue_foldl]
  simp [concatValue]

/-- R80: a concatenation is the sum of its indices, each at its weight. -/
theorem concatValue_eq_sum (l : List Index) :
    concatValue l = ∑ i : Fin l.length, l[i].toNat * 2 ^ (11 * (l.length - 1 - i.val)) := by
  induction l with
  | nil => rfl
  | cons x l ih =>
    have htail (i : Fin l.length) : l.length - (i.val + 1) = l.length - 1 - i.val := by omega
    rw [concatValue_cons, ih]
    simp [Fin.sum_univ_succ, htail]

/-- R84: index i of a concatenation is its 11-bit field with all later indices below it. -/
theorem concatValue_field (l : List Index) (i : Nat) (h : i < l.length) :
    concatValue l / 2 ^ (11 * (l.length - 1 - i)) % 2 ^ 11 = l[i].toNat := by
  induction l using List.reverseRecOn with
  | nil => simp at h
  | append_singleton l x ih =>
    have hx := x.isLt
    rw [concatValue_append_singleton]
    rcases Nat.lt_or_ge i l.length with hi | hi
    · have hweight : 2 ^ (11 * ((l ++ [x]).length - 1 - i)) = 2048 * 2 ^ (11 * (l.length - 1 - i)) := by
        rw [List.length_append, List.length_singleton,
          show 11 * (l.length + 1 - 1 - i) = 11 + 11 * (l.length - 1 - i) by omega, Nat.pow_add]
      rw [hweight, ← Nat.div_div_eq_div_mul, show (concatValue l * 2048 + x.toNat) / 2048 = concatValue l by omega,
        ih hi, List.getElem_append_left hi]
    · obtain rfl : i = l.length := by
        rw [List.length_append, List.length_singleton] at h
        omega
      simp [Nat.mul_add_mod_of_lt hx]

/-- Settles O27: the string loses no bit of the concatenation, and the concatenation is the sum. -/
theorem bitStringIsTheWeightedSum : Obligations.BitStringIsTheWeightedSum := by
  intro idx
  have hl : idx.toList.length = 24 := Vector.length_toList
  rw [bitString_toNat, concatValue_eq_sum, ← Fin.sum_congr' _ hl.symm]
  simp

/-- R84: index i is the 11-bit field of S from bit 253 - 11 i on. -/
theorem bitString_field (idx : Vector Index 24) (i : Fin 24) :
    (bitString idx).extractLsb' (253 - 11 * i.val) 11 = idx[i] := by
  have hfield := concatValue_field idx.toList i.val (by simp)
  have hshift : 11 * (idx.toList.length - 1 - i.val) = 253 - 11 * i.val := by
    rw [Vector.length_toList]
    omega
  rw [hshift] at hfield
  apply BitVec.eq_of_toNat_eq
  rw [BitVec.extractLsb'_toNat, bitString_toNat, Nat.shiftRight_eq_div_pow, hfield]
  simp

/-- Settles O28, by the field of an index in the concatenation. -/
theorem eachIndexOccupiesItsField : Obligations.EachIndexOccupiesItsField :=
  bitString_field

/-- R84: the string determines the indices. -/
theorem bitString_injective {idx idx' : Vector Index 24} (h : bitString idx = bitString idx') : idx = idx' := by
  ext i hi
  have hfield : idx[i] = idx'[i] :=
    (bitString_field idx ⟨i, hi⟩).symm.trans (h ▸ bitString_field idx' ⟨i, hi⟩)
  rw [hfield]

/-! ### The entropy and the checksum as fields of the string -/

/-- R81: a field of E is the field of S eight bits higher. -/
theorem entropyBits_field_toNat (s : BitVec 264) {start len : Nat} (h : start + len ≤ 256) :
    ((entropyBits s).extractLsb' start len).toNat = s.toNat / 2 ^ (8 + start) % 2 ^ len := by
  have hfield : (entropyBits s).extractLsb' start len = s.extractLsb' (8 + start) len := by
    ext i hi
    simp [entropyBits, show start + i < 256 by omega, Nat.add_assoc]
  rw [hfield, BitVec.extractLsb'_toNat, Nat.shiftRight_eq_div_pow]

theorem expectedChecksum_toNat (idx : Vector Index 24) :
    (expectedChecksum idx).toNat = (bitString idx).toNat % 2 ^ 8 := by
  rw [expectedChecksum, checksumBits, BitVec.extractLsb'_toNat, Nat.shiftRight_zero]

/-- R81: S is E followed by C. -/
theorem entropyBits_append_checksumBits (s : BitVec 264) : entropyBits s ++ checksumBits s = s :=
  BitVec.extractLsb'_append_extractLsb' (w := 256) (len := 8)

/-- R83: the four bytes of an entropy word are adjacent in E. -/
theorem entropyWord_eq_field (e : BitVec 256) {k : Nat} (h : k < 8) :
    entropyWord e k = e.extractLsb' (224 - 32 * k) 32 := by
  have h1 : 248 - 8 * (4 * k) = 248 - 8 * (4 * k + 1) + 8 := by omega
  have h2 : 248 - 8 * (4 * k + 1) = 248 - 8 * (4 * k + 2) + 8 := by omega
  have h3 : 248 - 8 * (4 * k + 2) = 248 - 8 * (4 * k + 3) + 8 := by omega
  have h4 : 248 - 8 * (4 * k + 3) = 224 - 32 * k := by omega
  rw [entropyWord, entropyByte, entropyByte, entropyByte, entropyByte,
    BitVec.extractLsb'_append_extractLsb'_eq_extractLsb' h1, BitVec.extractLsb'_append_extractLsb'_eq_extractLsb' h2,
    BitVec.extractLsb'_append_extractLsb'_eq_extractLsb' h3, h4]

theorem entropyWords_getElem (idx : Vector Index 24) (k : Fin 8) :
    (entropyWords idx)[k] = (entropyBits (bitString idx)).extractLsb' (224 - 32 * k.val) 32 := by
  rw [← entropyWord_eq_field _ k.isLt]
  simp [entropyWords]

/-- The eight words cover E: bit i stands in word 7 - i / 32. -/
theorem eq_of_words_eq {e e' : BitVec 256}
    (h : ∀ k : Fin 8, e.extractLsb' (224 - 32 * k.val) 32 = e'.extractLsb' (224 - 32 * k.val) 32) : e = e' := by
  ext i hi
  have hword := congrArg (·.getLsbD (i % 32)) (h ⟨7 - i / 32, by omega⟩)
  have hpos : 224 - 32 * (7 - i / 32) + i % 32 = i := by omega
  simpa [hpos, Nat.mod_lt, BitVec.getLsbD_eq_getElem hi] using hword

/-- The entropy words say exactly what E says. -/
theorem entropyWords_eq_iff {idx idx' : Vector Index 24} :
    entropyWords idx = entropyWords idx' ↔ entropyBits (bitString idx) = entropyBits (bitString idx') := by
  refine ⟨fun h => eq_of_words_eq fun k => ?_, fun h => by rw [entropyWords, h, ← entropyWords]⟩
  rw [← entropyWords_getElem, h, entropyWords_getElem]

/-- Settles O29: E and C together are the string, and the string determines the indices. -/
theorem packIsInjective : Obligations.PackIsInjective := by
  intro idx idx' hentropy hchecksum
  have hc : checksumBits (bitString idx) = checksumBits (bitString idx') := hchecksum
  apply bitString_injective
  rw [← entropyBits_append_checksumBits (bitString idx), entropyWords_eq_iff.mp hentropy, hc,
    entropyBits_append_checksumBits]

/-- Settles O30: words and bytes are fields of E, and E starts eight bits up in S. -/
theorem entropyWordsAreFieldsOfTheString : Obligations.EntropyWordsAreFieldsOfTheString := by
  intro idx
  refine ⟨fun k => ?_, fun j => ?_, expectedChecksum_toNat idx⟩
  · rw [entropyWords_getElem, entropyBits_field_toNat _ (by omega), Nat.add_sub_assoc (by omega)]
  · rw [entropyByte, entropyBits_field_toNat _ (by omega), Nat.add_sub_assoc (by omega)]

/-! ### The last index -/

/-- R81: the last index gives its low byte to the checksum. -/
theorem expectedChecksum_withLast (idx : Vector Index 24) (x : Index) :
    expectedChecksum (withLast idx x) = x.extractLsb' 0 8 := by
  apply BitVec.eq_of_toNat_eq
  rw [expectedChecksum_toNat, bitString_withLast, BitVec.extractLsb'_toNat, Nat.shiftRight_zero]
  omega

/-- R80, R81: E is the first 23 indices followed by the high three bits of the last one. -/
theorem entropyBits_withLast_toNat (idx : Vector Index 24) (x : Index) :
    (entropyBits (bitString (withLast idx x))).toNat =
      (concatValue (idx.toList.take 23) * 8 + (x.extractLsb' 8 3).toNat) % 2 ^ 256 := by
  have hx := x.isLt
  have hhigh : (concatValue (idx.toList.take 23) * 2048 + x.toNat) / 2 ^ 8 =
      concatValue (idx.toList.take 23) * 8 + x.toNat / 2 ^ 8 % 2 ^ 3 := by omega
  rw [entropyBits, BitVec.extractLsb'_toNat, BitVec.extractLsb'_toNat, bitString_withLast, Nat.shiftRight_eq_div_pow,
    Nat.shiftRight_eq_div_pow, hhigh]

/-- Settles O31: ENTROPY[7] holds the low word of E, whose last three bits are all that E has of the last index. -/
theorem lastIndexSplitsIntoEntropyAndChecksum : Obligations.LastIndexSplitsIntoEntropyAndChecksum := by
  intro idx x
  refine ⟨expectedChecksum_withLast idx x, ?_, fun y hxy => ?_⟩
  · have hword : (entropyWords (withLast idx x))[7] = (entropyBits (bitString (withLast idx x))).extractLsb' 0 32 :=
      entropyWords_getElem (withLast idx x) 7
    have hhigh := (x.extractLsb' 8 3).isLt
    apply BitVec.eq_of_toNat_eq
    rw [hword, BitVec.extractLsb'_toNat, BitVec.extractLsb'_toNat, entropyBits_withLast_toNat, Nat.shiftRight_zero,
      Nat.shiftRight_zero]
    omega
  · apply entropyWords_eq_iff.mpr
    apply BitVec.eq_of_toNat_eq
    rw [entropyBits_withLast_toNat, entropyBits_withLast_toNat, hxy]

/-! ### The command -/

/-- Settles O23: acceptance and the dropped write as for every command; the completion step writes the fields of S. -/
theorem packAcceptsAndCompletes : Obligations.PackAcceptsAndCompletes := by
  refine ⟨fun s hb => ?_, fun s hb => ?_, fun s hc => ?_⟩
  · exact ⟨accept .pack s, command_of_not_busy hb _, rfl, rfl, rfl, rfl, rfl⟩
  · exact command_of_busy hb _
  · exact ⟨completionStep .pack s, hc.step_eq, entropyWords_getElem s.block.idx, rfl, rfl, rfl, rfl, rfl, rfl⟩

set_option exponentiation.threshold 264 in
/-- Settles O32, by computing the string of the example. -/
theorem packOfTheRampExample : Obligations.PackOfTheRampExample := by
  unfold Obligations.PackOfTheRampExample
  decide

end Sys2Proof.Machine

/-! PROOFS. SHA-256 of 32 bytes (R90 to R100): its functions, constants, schedule and rounds; the command VERIFY (R104); and
the valid last indices (R102), one in each block of 256. -/

namespace Sys2Proof.Machine

/-! ### The functions on words (R91 to R93) -/

/-- R91: ROTR is the library's right rotation. -/
theorem rotr_eq_rotateRight {n : Nat} (h : n < 32) (x : Word) : rotr n x = x.rotateRight n := by
  rw [rotr, BitVec.rotateRight_def, Nat.mod_eq_of_lt h]

/-- R91: bit i of a rotation is bit i + n, counted round the word. -/
theorem rotr_getLsbD {n i : Nat} (hn : n < 32) (hi : i < 32) (x : Word) :
    (rotr n x).getLsbD i = x.getLsbD ((i + n) % 32) := by
  rw [rotr_eq_rotateRight hn, BitVec.getLsbD_rotateRight_of_lt hn]
  by_cases hlow : i < 32 - n
  · rw [decide_eq_true hlow, cond_true, Nat.add_comm, Nat.mod_eq_of_lt (by omega)]
  · rw [decide_eq_false hlow, cond_false, decide_eq_true hi, Bool.true_and,
      show i - (32 - n) = (i + n) % 32 by omega]

theorem shr_getLsbD (n i : Nat) (x : Word) :
    (shr n x).getLsbD i = if i + n < 32 then x.getLsbD (i + n) else false := by
  rw [shr, BitVec.getLsbD_ushiftRight, Nat.add_comm]
  split
  · rfl
  · exact BitVec.getLsbD_of_ge x (i + n) (by omega)

/-- Settles O33, one lemma for each function. -/
theorem rotateAndShiftMoveEachBit : Obligations.RotateAndShiftMoveEachBit :=
  fun n x i _ hn hi => ⟨rotr_getLsbD hn hi x, shr_getLsbD n i x⟩

/-- R92: a bit of Ch is the bit of y or z that the bit of x chooses. -/
theorem ch_getLsbD (x y z : Word) {i : Nat} (hi : i < 32) :
    (ch x y z).getLsbD i = if x.getLsbD i then y.getLsbD i else z.getLsbD i := by
  simp only [ch, BitVec.getLsbD_xor, BitVec.getLsbD_and, BitVec.getLsbD_not, hi]
  cases x.getLsbD i
  · simp
  · simp

/-- R92: a bit of Maj is set when at least two of the three bits are. -/
theorem maj_getLsbD (x y z : Word) (i : Nat) :
    (maj x y z).getLsbD i = true ↔ 2 ≤ (x.getLsbD i).toNat + (y.getLsbD i).toNat + (z.getLsbD i).toNat := by
  simp only [maj, BitVec.getLsbD_xor, BitVec.getLsbD_and]
  generalize x.getLsbD i = a, y.getLsbD i = b, z.getLsbD i = c
  revert a b c
  decide

/-- Settles O34: the bits of Ch and Maj, and the four sums of rotations with each ROTR the library's rotation. -/
theorem hashFunctionsAreTheStandardOnes : Obligations.HashFunctionsAreTheStandardOnes := by
  intro x y z i hi
  refine ⟨ch_getLsbD x y z hi, maj_getLsbD x y z i, ?_, ?_, ?_, ?_⟩
  all_goals
    simp (disch := decide) only [bigSigma0, bigSigma1, smallSigma0, smallSigma1, shr, rotr_eq_rotateRight]

/-! ### The constants (R94, R95) -/

/-- The 64 primes of R94, whose cube roots give the round constants. -/
def firstPrimes : List Nat :=
  [2, 3, 5, 7, 11, 13, 17, 19, 23, 29, 31, 37, 41, 43, 47, 53, 59, 61, 67, 71, 73, 79, 83, 89, 97, 101, 103, 107, 109,
    113, 127, 131, 137, 139, 149, 151, 157, 163, 167, 173, 179, 181, 191, 193, 197, 199, 211, 223, 227, 229, 233, 239,
    241, 251, 257, 263, 269, 271, 277, 281, 283, 293, 307, 311]

/-- Below 18 * 18 a number with no proper divisor under 18 is prime. -/
theorem prime_iff_of_lt_324 {n : Nat} (h : n < 324) :
    Nat.Prime n ↔ 2 ≤ n ∧ ∀ m < 18, 2 ≤ m → m < n → ¬m ∣ n := by
  refine ⟨fun hp => ?_, fun ⟨htwo, hdiv⟩ => ?_⟩
  · obtain ⟨htwo, hdiv⟩ := Nat.prime_def_lt'.mp hp
    exact ⟨htwo, fun m _ => hdiv m⟩
  · have hsqrt : Nat.sqrt n < 18 := Nat.sqrt_lt.mpr h
    exact Nat.prime_def_le_sqrt.mpr ⟨htwo, fun m hm hle => hdiv m (by omega) hm (hle.trans_lt (Nat.sqrt_lt_self htwo))⟩

theorem filter_prime_range_312 : (List.range 312).filter (fun n => decide (Nat.Prime n)) = firstPrimes := by
  have htest : (List.range 312).filter (fun n => decide (Nat.Prime n)) =
      (List.range 312).filter fun n => decide (2 ≤ n ∧ ∀ m < 18, 2 ≤ m → m < n → ¬m ∣ n) :=
    List.filter_congr fun n hn => decide_eq_decide.mpr (prime_iff_of_lt_324 (by rw [List.mem_range] at hn; omega))
  rw [htest]
  decide +kernel

/-- Settles O35: with the primes listed, each inequality is between numerals of about a hundred bits. -/
theorem hashConstantsAreRootsOfPrimes : Obligations.HashConstantsAreRootsOfPrimes := by
  unfold Obligations.HashConstantsAreRootsOfPrimes
  rw [filter_prime_range_312]
  refine ⟨rfl, roundConstants_length, ?_, ?_⟩
  · decide +kernel
  · decide +kernel

/-! ### The example digest (R104) -/

/-- Settles O38, by computing the hash of the example. -/
theorem digestOfThirtyTwoZeroBytes : Obligations.DigestOfThirtyTwoZeroBytes := by
  unfold Obligations.DigestOfThirtyTwoZeroBytes
  decide +kernel

/-! ### The message and its schedule (R96, R97) -/

/-- R96: the words of the padded message. -/
theorem message_eq (ent : Vector Word 8) :
    message ent = [ent[0], ent[1], ent[2], ent[3], ent[4], ent[5], ent[6], ent[7],
      0x80000000#32, 0#32, 0#32, 0#32, 0#32, 0#32, 0#32, 0x00000100#32] := by
  obtain ⟨⟨l⟩, hl⟩ := ent
  match l, hl with
  | [_, _, _, _, _, _, _, _], _ => rfl

/-- R97: a word past the first ones of an extended schedule follows the recurrence. By induction on the words to come: the
next one is computed from words that all later extensions keep. -/
theorem extendSchedule_getD_of_ge (n : Nat) (w : List Word) {t : Nat} (hpos : 0 < w.length) (hge : w.length ≤ t)
    (hlt : t < w.length + n) :
    (extendSchedule n w).getD t 0 =
      smallSigma1 ((extendSchedule n w).getD (t - 2) 0) + (extendSchedule n w).getD (t - 7) 0 +
        smallSigma0 ((extendSchedule n w).getD (t - 15) 0) + (extendSchedule n w).getD (t - 16) 0 := by
  induction n generalizing w with
  | zero => omega
  | succ n ih =>
    rcases hge.eq_or_lt with rfl | hgt
    · have hnext : (extendSchedule (n + 1) w).getD w.length 0 = nextScheduleWord w := by
        rw [extendSchedule, extendSchedule_getD_of_lt _ _ (by simp)]
        simp
      rw [hnext, extendSchedule_getD_of_lt _ _ (by omega), extendSchedule_getD_of_lt _ _ (by omega),
        extendSchedule_getD_of_lt _ _ (by omega), extendSchedule_getD_of_lt _ _ (by omega), nextScheduleWord]
    · have hlen : (w ++ [nextScheduleWord w]).length = w.length + 1 := List.length_append
      exact ih (w ++ [nextScheduleWord w]) (by omega) (by omega) (by omega)

/-- Settles O36: the schedule is the message with 48 words added. -/
theorem scheduleFollowsTheRecurrence : Obligations.ScheduleFollowsTheRecurrence := by
  intro m hm
  refine ⟨?_, fun t ht => ?_, fun t hge hlt => ?_⟩
  · rw [schedule, extendSchedule_length, hm]
  · exact extendSchedule_getD_of_lt 48 m (by omega)
  · exact extendSchedule_getD_of_ge 48 m (by omega) (by omega) (by omega)

/-! ### The compression (R98 to R100) -/

/-- R98: the working variables before round t. -/
def workingVariables (w : List Word) (t : Nat) : HashWords :=
  ((roundConstants.zip w).take t).foldl shaRound initialHash

theorem compress_eq_workingVariables {w : List Word} (hw : w.length = 64) : compress w = workingVariables w 64 := by
  rw [compress, workingVariables, List.take_of_length_le (by simp [hw])]

/-- R98: round t runs on K[t] and W[t]. -/
theorem workingVariables_succ {w : List Word} (hw : w.length = 64) {t : Nat} (ht : t < 64) :
    workingVariables w (t + 1) = shaRound (workingVariables w t) (roundConstants.getD t 0, w.getD t 0) := by
  have hk : t < roundConstants.length := ht
  have hwt : t < w.length := hw ▸ ht
  have hzip : t < (roundConstants.zip w).length := by
    rw [List.length_zip]
    omega
  rw [workingVariables, List.take_succ_eq_append_getElem hzip, List.foldl_append, List.getElem_zip,
    List.getD_eq_getElem _ _ hk, List.getD_eq_getElem _ _ hwt]
  rfl

/-- Settles O37: the sequence of the working variables, whose steps are the rounds. -/
theorem compressionRunsTheSixtyFourRounds : Obligations.CompressionRunsTheSixtyFourRounds := by
  intro w hw
  refine ⟨workingVariables w, rfl, compress_eq_workingVariables hw, fun t ht => ?_⟩
  rw [workingVariables_succ hw ht]
  exact ⟨rfl, rfl, rfl, rfl, rfl, rfl, rfl, rfl⟩

/-- Settles O59, by the padded message and the eight final sums. -/
theorem hashIsThePaddedCompression : Obligations.HashIsThePaddedCompression := by
  intro ent
  rw [sha256, message_eq]
  exact ⟨rfl, rfl, rfl, rfl, rfl, rfl, rfl, rfl⟩

/-! ### The command VERIFY (R104) -/

/-- Settles O24: acceptance and the dropped write as for every command; the completion step writes what Check returns. -/
theorem verifyAcceptsAndCompletes : Obligations.VerifyAcceptsAndCompletes := by
  refine ⟨fun s hb => ?_, fun s hb => ?_, fun s hc => ?_⟩
  · exact ⟨accept .verify s, command_of_not_busy hb _, rfl, rfl, rfl, rfl, rfl⟩
  · exact command_of_busy hb _
  · exact ⟨completionStep .verify s, hc.step_eq, rfl, rfl, rfl, rfl, check_ok_iff s.block.idx, rfl, rfl, rfl, rfl, rfl⟩

/-! ### The valid last indices (R102) -/

/-- The indices of a block of 256 agree in their bits 10:8, which hold the block's number. -/
theorem extractLsb'_high_eq_iff (x y : Index) :
    x.extractLsb' 8 3 = y.extractLsb' 8 3 ↔ x.toNat / 256 = y.toNat / 256 := by
  rw [BitVec.toNat_eq, BitVec.extractLsb'_toNat, BitVec.extractLsb'_toNat, Nat.shiftRight_eq_div_pow,
    Nat.shiftRight_eq_div_pow]
  omega

/-- R102: the digest is the same for all last indices of a block of 256. -/
theorem check_csumCalc_withLast_eq (idx : Vector Index 24) {x y : Index} (h : x.toNat / 256 = y.toNat / 256) :
    (check (withLast idx x)).csumCalc = (check (withLast idx y)).csumCalc := by
  obtain ⟨_, _, hentropy⟩ := lastIndexSplitsIntoEntropyAndChecksum idx x
  rw [check_csumCalc, check_csumCalc, hentropy y ((extractLsb'_high_eq_iff x y).mpr h)]

/-- R101, R102: a last index is valid when its low byte is the calculated checksum. -/
theorem check_ok_withLast_iff (idx : Vector Index 24) (x : Index) :
    (check (withLast idx x)).ok = true ↔ x.toNat % 256 = (check (withLast idx x)).csumCalc.toNat := by
  rw [check_ok_iff, check_csumExp, expectedChecksum_withLast, eq_comm, BitVec.toNat_eq, BitVec.extractLsb'_toNat,
    Nat.shiftRight_zero]

/-- Settles O39: the byte is the calculated checksum of the block's first index. -/
theorem eachBlockHasOneValidLastIndex : Obligations.EachBlockHasOneValidLastIndex := by
  intro idx m
  obtain ⟨first, hfirst⟩ : ∃ first : Index, first.toNat = 256 * m.val :=
    ⟨BitVec.ofNat 11 (256 * m.val), by
      rw [BitVec.toNat_ofNat]
      omega⟩
  refine ⟨(check (withLast idx first)).csumCalc, fun x hx => ?_⟩
  have hcalc := check_csumCalc_withLast_eq idx (x := x) (y := first) (by omega)
  refine ⟨hcalc, ?_⟩
  rw [check_ok_withLast_iff, hcalc]
  omega

/-- A predicate that holds exactly once in each of the first m blocks of length n holds m times in them. -/
theorem count_of_once_in_each_block (p : Nat → Prop) [DecidablePred p] (n m : Nat)
    (h : ∀ k < m, ∃ d < n, ∀ r < n, p (n * k + r) ↔ r = d) : Nat.count p (n * m) = m := by
  induction m with
  | zero => rfl
  | succ m ih =>
    obtain ⟨d, hd, honce⟩ := h m (Nat.lt_succ_self m)
    have hblock : Nat.count (fun r => p (n * m + r)) n = 1 := by
      rw [Nat.count_eq_card_filter_range, Finset.card_eq_one]
      refine ⟨d, Finset.ext fun r => ?_⟩
      rw [Finset.mem_filter, Finset.mem_range, Finset.mem_singleton]
      exact ⟨fun ⟨hr, hp⟩ => (honce r hr).mp hp, fun hr => hr ▸ ⟨hd, (honce d hd).mpr rfl⟩⟩
    rw [Nat.mul_succ, Nat.count_add, ih fun k hk => h k (hk.trans (Nat.lt_succ_self m)), hblock]

/-- Settles O40: one valid last index in each of the eight blocks. -/
theorem eightLastIndicesAreValid : Obligations.EightLastIndicesAreValid := by
  intro idx
  have hcount : Nat.count (fun n => (check (withLast idx (BitVec.ofNat 11 n))).ok = true) (256 * 8) = 8 := by
    refine count_of_once_in_each_block _ 256 8 fun k hk => ?_
    obtain ⟨d, hd⟩ := eachBlockHasOneValidLastIndex idx ⟨k, hk⟩
    refine ⟨d.toNat, d.isLt, fun r hr => ?_⟩
    have hx : (BitVec.ofNat 11 (256 * k + r)).toNat = 256 * k + r := by
      rw [BitVec.toNat_ofNat]
      omega
    have hblock : (BitVec.ofNat 11 (256 * k + r)).toNat / 256 = k := by omega
    obtain ⟨_, hvalid⟩ := hd (BitVec.ofNat 11 (256 * k + r)) hblock
    rw [hvalid, hx, Nat.add_left_cancel_iff]
  simpa only [Nat.count, Bool.decide_eq_true, List.countP_eq_length_filter] using hcount

end Sys2Proof.Machine

/-! PROOFS. CORRECT (R106 to R115): the candidates, the search over them, which finds a valid one within 511 offsets, and
the command's completion; and what every completion leaves in the result registers (R45). -/

namespace Sys2Proof.Machine

variable {idx : Vector Index 24} {ofs : Nat}

/-! ### The candidates (R106, R107) -/

/-- R106: the candidate is the sum of base and offset modulo 2048. -/
theorem candidate_toNat (base : Index) (ofs : Nat) : (candidate base ofs).toNat = (base.toNat + ofs) % 2048 := by
  rw [candidate, BitVec.toNat_add, BitVec.toNat_ofNat, Nat.add_mod_mod]

/-- R107: the offset at which an index is the candidate is its distance from the base. -/
theorem candidate_eq_iff {base x : Index} (h : ofs < 2048) : candidate base ofs = x ↔ ofs = (x - base).toNat := by
  rw [BitVec.toNat_eq, candidate_toNat, BitVec.toNat_sub]
  omega

/-- Settles O41: the one offset is the distance from the base, which is 0 for the base alone. -/
theorem candidatesAreAllOtherIndices : Obligations.CandidatesAreAllOtherIndices := by
  intro base x
  refine ⟨⟨fun hne => ?_, fun ⟨ofs, ⟨hlow, hhigh, hx⟩, _⟩ hbase => ?_⟩, fun ofs hlow hhigh => ?_⟩
  · have hpos : (x - base).toNat ≠ 0 := fun h0 => hne (by bv_omega)
    have hlt : (x - base).toNat < 2048 := (x - base).isLt
    exact ⟨(x - base).toNat, ⟨by omega, by omega, (candidate_eq_iff hlt).mpr rfl⟩,
      fun ofs ⟨_, hhigh, hx⟩ => (candidate_eq_iff (by omega)).mp hx⟩
  · rw [candidate_eq_iff (by omega), hbase, BitVec.sub_self, BitVec.toNat_zero] at hx
    omega
  · have hbase : base.toNat < 2048 := base.isLt
    rw [candidate_toNat]
    split <;> omega

/-! ### The search (R106, R108) -/

/-- R106: the first success is the smallest valid offset of the range. -/
theorem firstSuccess_eq_some_iff : firstSuccess idx = some ofs ↔
    (1 ≤ ofs ∧ ofs ≤ 2047) ∧ candidateValid idx ofs = true ∧ ∀ o, 1 ≤ o → o < ofs → candidateValid idx o = false := by
  have hmem := mem_searchOffsets (ofs := ofs)
  rw [firstSuccess]
  unfold searchOffsets at hmem ⊢
  rw [List.find?_range'_eq_some, hmem]
  simp only [Bool.not_eq_true']
  exact and_left_comm

/-- R35, R106: KD holds the first success, which fits its 11 bits. -/
theorem search_kd_toNat (h : firstSuccess idx = some ofs) : (search idx).kd.toNat = ofs := by
  obtain ⟨_, hhigh, _⟩ := firstSuccess_some h
  rw [search_of_firstSuccess h, BitVec.toNat_ofNat]
  omega

/-- R106, R112: the search leaves the last index KD beyond the base, whether it succeeds or not. -/
theorem search_last (idx : Vector Index 24) : (search idx).last = idx[23] + (search idx).kd := by
  cases h : firstSuccess idx with
  | none => rw [search_of_none h]; exact (BitVec.add_zero _).symm
  | some ofs => rw [search_of_firstSuccess h]; rfl

/-- Settles O42, by the two outcomes of the search. -/
theorem searchReturnsTheSmallestOffset : Obligations.SearchReturnsTheSmallestOffset := by
  intro idx
  cases h : firstSuccess idx with
  | none =>
    rw [search_of_none h]
    exact ⟨fun hfound => absurd hfound Bool.false_ne_true, fun _ => ⟨rfl, rfl, fun _ => firstSuccess_none h⟩⟩
  | some ofs =>
    have hfound : (search idx).found = true := by rw [search_of_firstSuccess h]
    obtain ⟨⟨hlow, _⟩, _, hleast⟩ := firstSuccess_eq_some_iff.mp h
    refine ⟨fun _ => ?_, fun hnot => absurd (hnot.symm.trans hfound) Bool.false_ne_true⟩
    rw [search_kd_toNat h]
    exact ⟨hlow, search_last idx, check_ok_of_search_found hfound, hleast⟩

/-! ### The search always succeeds (R110) -/

/-- R102, R107: the offset that reaches index d of the block of 256 after the base's, the blocks counted modulo 8. -/
theorem candidate_next_block (base : Index) {d : Nat} (hd : d < 256) :
    (candidate base (256 - base.toNat % 256 + d)).toNat = 256 * ((base.toNat / 256 + 1) % 8) + d := by
  rw [candidate_toNat]
  omega

/-- R102, R110: the block of 256 after the base's has a valid index, at most 511 beyond the base. -/
theorem exists_candidateValid_le_511 (idx : Vector Index 24) :
    ∃ ofs, 1 ≤ ofs ∧ ofs ≤ 511 ∧ candidateValid idx ofs = true := by
  obtain ⟨d, hd⟩ := eachBlockHasOneValidLastIndex idx ⟨((lastIndex idx).toNat / 256 + 1) % 8, by omega⟩
  have hlt : d.toNat < 256 := d.isLt
  have hcand := candidate_next_block (lastIndex idx) hlt
  obtain ⟨_, hvalid⟩ := hd _ (by rw [hcand, Nat.mul_add_div (by omega), Nat.div_eq_of_lt hlt, Nat.add_zero])
  exact ⟨_, by omega, by omega, hvalid.mpr hcand⟩

/-- R110: the search stops within 511 offsets, because one of them is valid. -/
theorem exists_firstSuccess_le_511 (idx : Vector Index 24) :
    ∃ ofs, firstSuccess idx = some ofs ∧ 1 ≤ ofs ∧ ofs ≤ 511 := by
  obtain ⟨o, hlow, hhigh, hvalid⟩ := exists_candidateValid_le_511 idx
  cases h : firstSuccess idx with
  | none => simp [firstSuccess_none h hlow (by omega)] at hvalid
  | some ofs =>
    obtain ⟨⟨hpos, _⟩, _, hleast⟩ := firstSuccess_eq_some_iff.mp h
    refine ⟨ofs, rfl, hpos, ?_⟩
    by_contra hbeyond
    simp [hleast o hlow (by omega)] at hvalid

/-- Settles O43, by the bound on the first success. -/
theorem searchSucceedsWithin511Offsets : Obligations.SearchSucceedsWithin511Offsets := by
  intro idx
  obtain ⟨ofs, h, hbounds⟩ := exists_firstSuccess_le_511 idx
  rw [search_kd_toNat h, search_of_firstSuccess h]
  exact ⟨rfl, hbounds⟩

/-- R110: no index vector makes the search fail. -/
theorem search_found (idx : Vector Index 24) : (search idx).found = true := by
  obtain ⟨hfound, _⟩ := searchSucceedsWithin511Offsets idx
  exact hfound

/-! ### The command (R111) -/

/-- R110, R115: CORRECT ends with EXHAUSTED = 0, and PACK and VERIFY leave the bit. -/
theorem Block.complete_exhausted {b : Block} (h : b.status.exhausted = false) (op : RunOp) :
    (b.complete op).status.exhausted = false := by
  cases op with
  | pack => exact h
  | verify => exact h
  | correct => simp [Block.complete, search_found]

/-- R110, R115: of the changes a step can make, only CORRECT's completion could set EXHAUSTED. -/
theorem BlockStep.exhausted {s : State} {b : Block} (hs : BlockStep s b) (h : s.block.status.exhausted = false) :
    b.status.exhausted = false := by
  cases hs with
  | complete op => exact Block.complete_exhausted h op
  | reset => rfl
  | accept => rfl
  | _ => exact h -- no other change writes the bit

/-- Settles O46, on the list of changes a step can make. -/
theorem exhaustedIsNeverSet : Obligations.ExhaustedIsNeverSet :=
  fun _ _ h hst => (step_blockStep hst).exhausted h

/-- R111, R112: CORRECT's completion shifts the last index by KD. -/
theorem completeCorrect_idx_last (b : Block) : (completeCorrect b).idx[23] = b.idx[23] + (completeCorrect b).kd :=
  (lastIndex_withLast b.idx _).trans (search_last b.idx)

/-- R111: CORRECT's completion leaves IDX[0..22]. -/
theorem completeCorrect_idx_of_lt (b : Block) (i : Fin 24) (hi : i.val < 23) : (completeCorrect b).idx[i] = b.idx[i] :=
  withLast_getElem_of_lt b.idx _ hi

/-- R110, R113: CORRECT's completion leaves valid indices. -/
theorem completeCorrect_valid (b : Block) : (check (completeCorrect b).idx).ok = true :=
  check_ok_of_search_found (search_found b.idx)

/-- Settles O44: the search succeeds within 511 offsets, and Check passes on the last index it returns. -/
theorem correctAlwaysRepairsTheChecksum : Obligations.CorrectAlwaysRepairsTheChecksum := by
  intro s hc
  obtain ⟨hfound, hlow, hhigh⟩ := searchSucceedsWithin511Offsets s.block.idx
  have hvalid := completeCorrect_valid s.block
  exact ⟨completionStep .correct s, hc.step_eq, hfound, by simp [Block.complete, hfound], hvalid, hvalid, hlow, hhigh,
    completeCorrect_idx_last s.block, completeCorrect_idx_of_lt s.block⟩

/-- Settles O45: a search never tries offset 0, so KD is nonzero and the last index moves. -/
theorem correctOnValidIndicesChangesTheLast : Obligations.CorrectOnValidIndicesChangesTheLast := by
  intro s hc _
  have hfound := search_found s.block.idx
  have hkd := (search_found_iff_kd s.block.idx).mp hfound
  have hvalid := completeCorrect_valid s.block
  refine ⟨completionStep .correct s, hc.step_eq, fun hsame => hkd ?_, hvalid, hkd, hfound, hvalid, rfl, rfl⟩
  exact add_eq_left.mp ((completeCorrect_idx_last s.block).symm.trans hsame)

/-- Settles O25: acceptance and the dropped write as for every command; the completion step writes what Search and Check
return. -/
theorem correctAcceptsAndCompletes : Obligations.CorrectAcceptsAndCompletes := by
  refine ⟨fun s hb => ?_, fun s hb => ?_, fun s hc => ?_⟩
  · exact ⟨accept .correct s, command_of_not_busy hb _, rfl, rfl, rfl, rfl, rfl⟩
  · exact command_of_busy hb _
  · exact ⟨completionStep .correct s, hc.step_eq, lastIndex_withLast s.block.idx _, completeCorrect_idx_of_lt s.block,
      rfl, rfl, rfl, rfl, rfl, rfl, rfl, rfl, rfl, rfl, rfl, rfl, rfl⟩

/-! ### Every completion (R45) -/

/-- Settles O26: PACK writes its two results and leaves the others; VERIFY and CORRECT write all that Check returns. -/
theorem completedResultsDescribeTheIndices : Obligations.CompletedResultsDescribeTheIndices := by
  intro s op hc
  refine ⟨completionStep op s, hc.step_eq, ?_⟩
  cases op with
  | pack => exact ⟨rfl, rfl, rfl, rfl, fun hne => absurd rfl hne, fun _ => ⟨rfl, rfl⟩⟩
  | verify => exact ⟨rfl, rfl, rfl, rfl, fun _ => ⟨rfl, rfl, rfl⟩, nofun⟩
  | correct => exact ⟨rfl, rfl, rfl, rfl, fun _ => ⟨rfl, rfl, rfl⟩, nofun⟩

end Sys2Proof.Machine

/-! PROOFS. What the host's accesses do (R118 to R120) and the control commands (R121, R123, R124): a read and an index
write that reach a register, and the effect of a command at its write to CMD, that of NOP and CLRERR in particular. -/

namespace Sys2Proof.Machine

variable {s : State} {rest : List Input} {off : Offset} {v : Word}

/-! ### The register at an offset, and its value as a number -/

/-- R52: an offset that equals a register's offset as a number reaches that register. -/
theorem regAt_of_toNat_eq {r : Reg} (h : off.toNat = r.offset.toNat) : regAt off = r := by
  rw [BitVec.eq_of_toNat_eq h, regAt_offset]

/-- R37: CSUM reads as CSUM_CALC in bits 15:8 and CSUM_EXP in bits 7:0. -/
theorem regValue_csum_toNat (b : Block) : (b.regValue .csum).toNat = 256 * b.csumCalc.toNat + b.csumExp.toNat := by
  have hexp := b.csumExp.isLt
  rw [Block.regValue, BitVec.toNat_setWidth_of_le (by decide), BitVec.toNat_append,
    ← Nat.shiftLeft_add_eq_or_of_lt hexp, Nat.shiftLeft_eq, Nat.mul_comm]

/-! ### Accesses that come next -/

/-- R118: a supported read while BUSY = 0 records the register's value, and nothing else changes. -/
theorem State.Issues.step_read_of_not_busy (hi : s.Issues (.read (.offset off) 4) rest) (ha : off.toNat % 4 = 0)
    (hb : s.block.status.busy = false) :
    step s = .next ((s.takeInput rest).record
      { dir := .read, off := off, data := s.block.regValue (regAt off) }) := by
  have hspec : (s.takeInput rest).block.readsUnspecified (regAt off) = false := readsUnspecified_of_not_busy hb _
  rw [hi.step_read rfl (supported_iff.mpr ⟨rfl, ha⟩), hostRead, memRead_of_specified hspec, State.takeInput_block]

/-- R120: a supported write at the offset of `IDX[i]` is recorded and is the index write of `IDX[i]`. -/
theorem State.Issues.step_write_idx {i : Fin 24} (hi : s.Issues (.write (.offset off) 4 v) rest)
    (hoff : off.toNat = 0x80 + 4 * i.val) :
    step s = .next (idxWrite i v ((s.takeInput rest).record { dir := .write, off := off, data := v })) := by
  rw [hi.step_write rfl (supported_iff.mpr ⟨rfl, by omega⟩), memWrite_idx hoff]

/-- R121: a write to CMD of the word of a legal command is recorded and runs that command. -/
theorem State.Issues.step_write_cmd {i : Instr} (hi : s.Issues (.write (.offset 0x00#8) 4 v) rest)
    (hd : decode v = .ok i) :
    step s = exec i ((s.takeInput rest).record { dir := .write, off := 0x00#8, data := v }) := by
  rw [hi.step_write rfl rfl, memWrite_cmd, cmdWrite_of_legal hd]

/-! ### A command written -/

/-- R130: any command written while BUSY = 1 is dropped. -/
theorem exec_of_busy (hb : s.block.status.busy = true) (i : Instr) : exec i s = .next (raiseBusy s) := by
  rw [exec_eq_command, command_of_busy hb]

/-- R121: a command written while BUSY = 0 has its effect. -/
theorem exec_of_not_busy (hb : s.block.status.busy = false) (i : Instr) : exec i s = .next (effect i s) := by
  rw [exec_eq_command, command_of_not_busy hb]

/-! ### The obligations -/

/-- Settles O15: the read records the value of the register that the offset reaches. -/
theorem readReturnsTheRegister : Obligations.ReadReturnsTheRegister := by
  intro s off rest hi ha hb
  refine ⟨s.block.regValue (regAt off), hi.step_read_of_not_busy ha hb, fun h => ?cmd, fun h => ?status, fun h => ?kd,
    fun h => ?base, fun h => ?csum, fun k h => ?digest, fun k h => ?entropy, fun i h => ?idx, fun h => ?reserved⟩
  case cmd => rw [regAt_of_toNat_eq (r := .cmd) h]; rfl
  case status => rw [regAt_of_toNat_eq (r := .status) h]; rfl
  case kd => rw [regAt_of_toNat_eq (r := .kd) h]; exact BitVec.toNat_setWidth_of_le (by decide)
  case base => rw [regAt_of_toNat_eq (r := .base) h]; exact BitVec.toNat_setWidth_of_le (by decide)
  case csum => rw [regAt_of_toNat_eq (r := .csum) h]; exact regValue_csum_toNat _
  case digest => rw [regAt_of_digest h]; rfl
  case entropy => rw [regAt_of_entropy h]; rfl
  case idx => rw [regAt_of_idx h]; exact BitVec.toNat_setWidth_of_le (by decide)
  case reserved => rw [regAt_of_reserved h]; rfl

/-- Settles O10: the decoded command runs on the state with the access taken and recorded. -/
theorem stepRunsTheDecodedCommand : Obligations.StepRunsTheDecodedCommand :=
  fun _ _ _ _ hi hd => hi.step_write_cmd hd

/-- Settles O13: the low 11 bits of the data replace one index while BUSY = 0, and are dropped while BUSY = 1. -/
theorem indexWriteStoresElevenBits : Obligations.IndexWriteStoresElevenBits := by
  intro s i off v rest hi hoff
  refine ⟨_, hi.step_write_idx hoff, ?_⟩
  cases hb : s.block.status.busy with
  | false =>
    rw [idxWrite_of_not_busy (by simpa using hb)]
    refine ⟨rfl, rfl, fun _ => ⟨?stored, fun j hj => ?others, rfl⟩, nofun⟩
    case stored => simp [indexOfData]
    case others => exact (Block.setIdx_idx_getElem s.block i j v).trans (if_neg hj)
  | true =>
    rw [idxWrite_of_busy (by simpa using hb)]
    exact ⟨rfl, rfl, nofun, fun _ => rfl⟩

/-- Settles O21: the effect of NOP is none, and the busy error is that of every command. -/
theorem nopChangesNothing : Obligations.NopChangesNothing :=
  fun _ => ⟨fun hb => exec_of_not_busy hb .nop, fun hb => exec_of_busy hb .nop⟩

/-- Settles O22: the effect of CLRERR clears the two sticky bits, and the busy error is that of every command. -/
theorem clrerrClearsTheStickyBits : Obligations.ClrerrClearsTheStickyBits :=
  fun _ => ⟨fun hb => exec_of_not_busy hb .clrerr, fun hb => exec_of_busy hb .clrerr⟩

end Sys2Proof.Machine

/-! PROOFS. The block at rest (R142, R145), the two conditions that set a sticky error bit (R129, R130), and how a running
command can end (R132, R144, R149). -/

namespace Sys2Proof.Machine

variable {s t : State} {off : Offset} {w : Word}

/-! ### The idle block -/

/-- R142, R145: once the host program has ended, the block waits. -/
theorem State.ended.nextMove_eq (h : s.ended) : nextMove s = .quiet := by
  obtain ⟨hin, hidle⟩ := h
  simp [nextMove, hin, hidle]

/-- Settles O9: the block waits, and waiting changes nothing. -/
theorem idleBlockWaitsUnchanged : Obligations.IdleBlockWaitsUnchanged := by
  intro s hdone hended
  rw [step, hended.nextMove_eq, perform, if_pos hdone]

/-! ### The command error -/

/-- R71: a word that is no command's decodes to an error. -/
theorem exists_decode_eq_error (h : ∀ i, decode w ≠ .ok i) : ∃ e, decode w = .error e := by
  cases hd : decode w with
  | ok i => exact absurd hd (h i)
  | error e => exact ⟨e, rfl⟩

/-- Settles O11: the write is recorded, and the command write of an illegal word is the command error. -/
theorem illegalWordSetsOnlyCmdErr : Obligations.IllegalWordSetsOnlyCmdErr := by
  intro s w rest hi hillegal hb
  obtain ⟨e, hd⟩ := exists_decode_eq_error hillegal
  rw [hi.step_write rfl rfl, memWrite_cmd, cmdWrite_of_illegal (by simpa using hb) hd]
  rfl

/-! ### The busy error -/

/-- R130: while BUSY = 1 a supported write to CMD or to an index register is the busy error, whatever the word. -/
theorem memWrite_of_busy_cmd_or_idx (hb : s.block.status.busy = true)
    (hoff : off = 0x00#8 ∨ ∃ i : Fin 24, off.toNat = 0x80 + 4 * i.val) (v : Word) :
    memWrite off v s = .next (raiseBusy s) := by
  rcases hoff with rfl | ⟨i, hi⟩
  · rw [memWrite_cmd, cmdWrite_of_busy hb]
  · rw [memWrite_idx hi, idxWrite_of_busy hb]

/-- R52: an aligned offset that is no index register's lies outside the index registers' range. -/
theorem offset_outside_idx (ha : off.toNat % 4 = 0) (h : ∀ i : Fin 24, off.toNat ≠ 0x80 + 4 * i.val) :
    off.toNat < 0x80 ∨ 0xE0 ≤ off.toNat := by
  by_contra hin
  exact h ⟨(off.toNat - 0x80) / 4, by omega⟩ (by simp only; omega)

/-- R132, R144: a running command goes on unless the step is its own completion step or a reset. -/
theorem running_or_completes_or_reset {op : RunOp} (hb : s.block.status.busy = true) (hrun : s.block.seq = .run op)
    (hst : step s = .next t) :
    t.block.seq = .run op ∨ s.Completes op ∨ ∃ rest, s.inputs = .reset :: rest := by
  by_cases hreset : s.inputs.head? = some .reset
  · exact .inr (.inr (List.head?_eq_some_iff.mp hreset))
  · rcases everyStepNearsTheCompletion s t op hb hrun hreset hst with ⟨hc, _⟩ | ⟨_, _, e, _, hblock, _⟩
    · exact .inr (.inl hc)
    · rw [hblock]
      exact .inl hrun

/-- Settles O12: the busy error at CMD and the index registers, nothing at the other offsets, and the three ways in which a
step treats a running command. -/
theorem busyWritesAreDropped : Obligations.BusyWritesAreDropped := by
  refine ⟨fun s off v rest hi hb ha => ?_, fun _ _ _ hb hrun hst => running_or_completes_or_reset hb hrun hst⟩
  rw [hi.step_write rfl (supported_iff.mpr ⟨rfl, ha⟩)]
  constructor
  · intro hoff
    rw [memWrite_of_busy_cmd_or_idx (by simpa using hb) hoff]
    rfl
  · rintro ⟨hcmd, hidx⟩
    rw [memWrite_of_readOnly ha hcmd (offset_outside_idx ha hidx)]
    rfl

end Sys2Proof.Machine

/-! PROOFS. Reset (R144, R146) and the hazards of a running command: what the host reads meanwhile (R151), and that the
command completes (R150). -/

namespace Sys2Proof.Machine

variable {s : State} {op : RunOp} {rest : List Input} {off : Offset} {r : Reg}

/-! ### Reset -/

/-- Settles O7: the reset step leaves the block of the reset state, and a running command goes on at any other step but its
completion. -/
theorem resetInputResetsTheWholeBlock : Obligations.ResetInputResetsTheWholeBlock :=
  ⟨fun _ _ hin => ⟨_, step_of_reset hin, rfl, rfl, rfl, resetStateHoldsTheResetValues⟩,
    fun _ _ _ hb hrun hst => running_or_completes_or_reset hb hrun hst⟩

/-- A reset comes next only when the host's next input is the reset input. -/
theorem inputs_of_nextMove_reset (h : nextMove s = .reset rest) : s.inputs = .reset :: rest := by
  unfold nextMove at h
  split at h
  next hin => cases h; exact hin
  next => split at h <;> cases h
  next =>
    split at h
    · cases h
    · split_ifs at h

/-- R146: before the first reset every move but a reset is refused. -/
theorem perform_of_not_resetDone (hdone : s.resetDone = false) {m : Move} (hm : ∀ rest, m ≠ .reset rest) :
    perform m s = .refused .noReset := by
  cases m with
  | reset rest => exact absurd rfl (hm rest)
  | complete op => simp [perform, hdone]
  | host x rest => simp [perform, hdone]
  | quiet => simp [perform, hdone]

/-- Settles O8: with another next input the move is no reset. -/
theorem nothingRunsBeforeTheFirstReset : Obligations.NothingRunsBeforeTheFirstReset := by
  intro s hdone hin
  refine perform_of_not_resetDone hdone fun rest hm => hin ?_
  rw [inputs_of_nextMove_reset hm, List.head?_cons]

/-! ### Reads while a command runs -/

/-- R52: every register stands at an aligned offset. -/
theorem Reg.offset_aligned (r : Reg) : r.offset.toNat % 4 = 0 := by
  cases r with
  | cmd | status | kd | base | csum | reserved => rfl
  | digest k => rw [Reg.digest_offset_toNat]; omega
  | entropy k => rw [Reg.entropy_offset_toNat]; omega
  | idx i => rw [Reg.idx_offset_toNat]; omega

/-- R118: a read of a register that comes next, in terms of the register's offset. -/
theorem State.Issues.step_read_reg (hi : s.Issues (.read (.offset off) 4) rest) (hoff : off.toNat = r.offset.toNat) :
    step s = .next (hostRead off (s.takeInput rest)) :=
  hi.step_read rfl (supported_iff.mpr ⟨rfl, by rw [hoff, r.offset_aligned]⟩)

/-- R151: a read that the spec leaves unspecified records the next draw and advances the draw counter. -/
theorem State.Issues.step_read_unspecified (hi : s.Issues (.read (.offset off) 4) rest)
    (hoff : off.toNat = r.offset.toNat) (hr : s.block.readsUnspecified r = true) :
    step s = .next { (s.takeInput rest).record { dir := .read, off := off, data := Config.draw s.draws } with
      draws := s.draws + 1 } := by
  have hu : (s.takeInput rest).block.readsUnspecified (regAt off) = true := by rwa [regAt_of_toNat_eq hoff]
  rw [hi.step_read_reg hoff, hostRead, memRead_of_unspecified hu]
  rfl

/-- R118: every other read records the register's value, and nothing else changes. -/
theorem State.Issues.step_read_specified (hi : s.Issues (.read (.offset off) 4) rest)
    (hoff : off.toNat = r.offset.toNat) (hr : s.block.readsUnspecified r = false) :
    step s = .next ((s.takeInput rest).record { dir := .read, off := off, data := s.block.regValue r }) := by
  have hs : (s.takeInput rest).block.readsUnspecified (regAt off) = false := by rwa [regAt_of_toNat_eq hoff]
  rw [hi.step_read_reg hoff, hostRead, memRead_of_specified hs, regAt_of_toNat_eq hoff, State.takeInput_block]

/-- R151: an index register is unspecified only when it is IDX[23] and CORRECT runs. -/
theorem readsUnspecified_idx_of_ne {b : Block} {i : Fin 24} (h : b.seq = .run .correct → i ≠ 23) :
    b.readsUnspecified (.idx i) = false := by
  by_cases hseq : b.seq = .run .correct
  · simp [Block.readsUnspecified, h hseq]
  · simp [Block.readsUnspecified, hseq]

/-- Settles O16: the result registers, and IDX[23] during CORRECT, are unspecified while BUSY = 1, and the others are not. -/
theorem readsOfResultsWhileBusyAreDraws : Obligations.ReadsOfResultsWhileBusyAreDraws := by
  intro s off rest hi hb reads draw
  refine ⟨fun h => ?kd, fun h => ?csum, fun k h => ?digest, fun k h => ?entropy, fun h hseq => ?lastDrawn,
    fun h hseq => ?last, fun h => ?status, fun h => ?base, fun i hlt h => ?idx⟩
  case kd => exact hi.step_read_unspecified (r := .kd) h hb
  case csum => exact hi.step_read_unspecified (r := .csum) h hb
  case digest => exact hi.step_read_unspecified (h.trans (Reg.digest_offset_toNat k).symm) hb
  case entropy => exact hi.step_read_unspecified (h.trans (Reg.entropy_offset_toNat k).symm) hb
  case lastDrawn =>
    exact hi.step_read_unspecified (r := .idx 23) h (by simp [Block.readsUnspecified, hb, hseq])
  case last =>
    exact hi.step_read_specified (r := .idx 23) h (readsUnspecified_idx_of_ne fun hrun => absurd hrun hseq)
  case status => exact hi.step_read_specified (r := .status) h rfl
  case base => exact hi.step_read_specified (r := .base) h rfl
  case idx =>
    have hne : i ≠ 23 := Fin.ne_of_lt hlt
    exact hi.step_read_specified (h.trans (Reg.idx_offset_toNat i).symm) (readsUnspecified_idx_of_ne fun _ => hne)

/-! ### Completion -/

@[simp] theorem Block.complete_done (b : Block) (op : RunOp) : (b.complete op).status.done = true := by cases op <;> rfl

/-- What R150 asks of a run from `s`: within `bound` steps, none of which faults or is refused, a command has completed. -/
def State.CompletesWithin (s : State) (bound : Nat) : Prop :=
  ∃ n t, n ≤ bound ∧ Sys2Proof.core.run n s = .next t ∧ t.block.seq = .idle ∧ t.block.status.busy = false ∧
    t.block.status.done = true

/-- A completion that is due is one step. -/
theorem State.Completes.completesWithin (hc : s.Completes op) (d : Nat) : s.CompletesWithin (d + 1) :=
  ⟨1, completionStep op s, by omega, run_succ hc.step_eq, Block.complete_seq s.block op, Block.complete_busy s.block op,
    Block.complete_done s.block op⟩

/-- A step that comes before a completion adds one to its bound. -/
theorem State.CompletesWithin.of_step {t : State} {bound : Nat} (hst : step s = .next t) (ht : t.CompletesWithin bound) :
    s.CompletesWithin (bound + 1) := by
  obtain ⟨n, u, hn, hrun, hend⟩ := ht
  exact ⟨n + 1, u, by omega, (run_succ hst).trans hrun, hend⟩

/-- Settles O55, by induction on the accesses to come: either the completion is due, or the next access takes one off the
latency and leaves the command running. -/
theorem everyAcceptedCommandCompletes : Obligations.EveryAcceptedCommandCompletes := by
  intro s op hdone hb hrun hacc
  change s.CompletesWithin (s.delay + 1)
  induction hin : s.inputs generalizing s with
  | nil =>
    have hc : s.Completes op := ⟨hdone, hrun, .inl hin, by simp [hin]⟩
    exact hc.completesWithin s.delay
  | cons x rest ih =>
    rw [hin] at hacc
    have hx : x.access = true := hacc x List.mem_cons_self
    have hreset : x ≠ .reset := Input.ne_reset_of_access hx
    by_cases hdelay : s.delay = 0
    · have hc : s.Completes op := ⟨hdone, hrun, .inr hdelay, by simp [hin, hreset]⟩
      exact hc.completesWithin s.delay
    · have hi : s.Issues x rest := ⟨hdone, hin, hreset, .inr hdelay⟩
      obtain ⟨t, e, hstep, hdone', hin', hdelay', _, hblock⟩ := hi.step_access_of_busy hx hb
      have hb' : t.block.status.busy = true := by rw [hblock]; exact hb
      have hrun' : t.block.seq = .run op := by rw [hblock]; exact hrun
      have hacc' : ∀ y ∈ t.inputs, y.access = true := fun y hy => hacc y (List.mem_cons_of_mem x (hin' ▸ hy))
      have hrest : t.CompletesWithin (t.delay + 1) := ih t hdone' hb' hrun' hacc' hin'
      have hlatency : t.delay + 1 = s.delay := by omega
      exact .of_step hstep (hlatency ▸ hrest)

end Sys2Proof.Machine

/-! PROOFS. Accesses outside the window (R51, U3): an address that resolves to no offset reaches no register, and the model
refuses the access (log entry 9). -/

namespace Sys2Proof.Machine

variable {p : Place} {addr width : Nat} {act : Offset → Result}

/-- R47, R51: an address has no window offset exactly when it lies below or above the 256 bytes of the window. -/
theorem windowOffset_eq_none_iff :
    windowOffset addr = none ↔ addr < Config.sgcBase ∨ Config.sgcBase + 0xFF < addr := by
  rw [windowOffset, ite_eq_right_iff]
  simp only [reduceCtorEq, imp_false]
  omega

/-- R51: an access at a place outside the window is refused, whatever its width and before it is performed. -/
theorem atOffset_of_outside (hp : p.resolve = none) : atOffset p width act = .refused .outsideWindow := by
  rw [atOffset, hp]

/-- Settles O20, for either direction of the access: the address resolves to no offset. -/
theorem accessesOutsideTheWindowAreRefused : Obligations.AccessesOutsideTheWindowAreRefused := by
  intro s addr width v rest h
  have hp : (Place.address addr).resolve = none := windowOffset_eq_none_iff.mpr h
  constructor
  · intro hi
    rw [hi.step_eq, hostStep, atOffset_of_outside hp]
  · intro hi
    rw [hi.step_eq, hostStep, atOffset_of_outside hp]

end Sys2Proof.Machine
